-- ==== Sys2Proof/Word.lean ====
section
/-! DEFINITION. The two word types of the block: the byte of the bus and of the host buffer, and the
32-bit word of the register port, of a card address and of a host address (R8, R9). -/

namespace Sys2Proof

/-- `u8`: the unit of a bus exchange and of the host buffer (R9, R86). -/
abbrev Byte := BitVec 8

/-- `u32`: a register, a card address, a host address, a clock reading (R7, R9). -/
abbrev Word := BitVec 32

end Sys2Proof
end

