-- ==== Sys2Proof/Config.lean ====
section
/-! DEFINITION. What an implementation fixes (the parameters of R7), the fixed constants of R7 and of the
general-knowledge passages G1 to G4 as named constants (93_implementation_defined.md asks for names),
and the free values: opaque constants that nothing in Lean can evaluate, the clock's growth made of two. -/

namespace Sys2Proof

/-- One region of the platform's admission map HOST_MEM_ADMIT (R90, P1): `size` bytes from `base`. -/
structure Region where
  base     : Nat
  size     : Nat
  readable : Bool
  writable : Bool
  deriving DecidableEq, Repr

/-- The rows of R7 marked *parameter*. "A model takes each row marked *parameter* as an argument": they
stand in `State.params`, and no step writes them (assumption 6). -/
structure Params where
  /-- F_INIT_HZ, the negotiation speed. -/
  fInitHz : Word
  /-- N_POWERUP_BYTES, at least 10. -/
  nPowerupBytes : Nat
  /-- T_READY_CMD_MS, the ready wait before a command. -/
  tReadyCmdMs : Word
  /-- T_READY_WRITE_MS, the ready wait after a written block. -/
  tReadyWriteMs : Word
  /-- T_ACMD41_DELAY_MS, the delay between ACMD41 attempts. -/
  tAcmd41DelayMs : Word
  /-- HOST_MEM_ADMIT, as the list of regions the platform admits (assumption 7). -/
  hostMemAdmit : List Region
  deriving DecidableEq, Repr

namespace Config

/-- The values R7 gives this hardware; HOST_MEM_ADMIT is OPEN there and admits the whole space here
(DESIGN CHOICE, unsafe, assumption 7). -/
def defaultParams : Params where
  fInitHz := 100000#32
  nPowerupBytes := 10
  tReadyCmdMs := 500#32
  tReadyWriteMs := 500#32
  tAcmd41DelayMs := 1#32
  hostMemAdmit := [{ base := 0, size := 4294967296, readable := true, writable := true }]

/-- BLOCK_SIZE (R7, R40). -/
def blockSize : Nat := 512
/-- Bytes of a CSD data block (R113, R260). -/
def csdSize : Nat := 16
/-- R1_POLL_BUDGET (R7, R165). -/
def r1PollBudget : Nat := 100
/-- ACMD41_BUDGET (R7, R194). -/
def acmd41Budget : Nat := 1000
/-- T_TOKEN_MS (R7, R224). -/
def tTokenMs : Word := 1000#32
/-- FILL (R7, R118). -/
def fill : Byte := 0xFF#8
/-- The byte that ends a ready wait (R112, R162). -/
def ready : Byte := 0xFF#8
/-- CMD8_ARG (R7). -/
def cmd8Arg : Word := 0x000001AA#32
/-- CMD16_ARG (R7). -/
def cmd16Arg : Word := 0x00000200#32
/-- ACMD41_ARG, bit 30 (R7; G4). -/
def acmd41Arg : Word := 0x40000000#32
/-- DATA_ACCEPTED, the low five bits of an accepted data response (R7, R111). -/
def dataAccepted : BitVec 5 := 0x05#5
/-- TOKEN_START_BLOCK (R7, R110; G3). -/
def tokenStartBlock : Byte := 0xFE#8
/-- TOKEN_START_MULTI_WRITE (R7, R110; G3). -/
def tokenStartMultiWrite : Byte := 0xFC#8
/-- TOKEN_STOP_MULTI_WRITE (R7, R110; G3). -/
def tokenStopMultiWrite : Byte := 0xFD#8
/-- x^3 + 1, what the CRC-7 polynomial x^7 + x^3 + 1 adds on feedback (R160; G1). -/
def crc7Poly : BitVec 7 := 0x09#7
/-- x^12 + x^5 + 1, what the CRC-16 polynomial adds on feedback (R223; G2). -/
def crc16Poly : BitVec 16 := 0x1021#16

/-- FREE VALUE (assumption 2): the byte the card answers to the n-th exchange that no listed input
covers (R57: "Its value may be any `u8`"). -/
opaque cardByte : Nat → Byte

/-- FREE VALUE (assumption 3): how many clock reads that no listed input covers find the count standing
still before its k-th growth (R60). -/
opaque clockPause : Nat → Nat

/-- FREE VALUE (assumption 3): by how much, less one, the count grows the k-th time (R60). -/
opaque clockGrow : Nat → Nat

/-- The growth at the n-th read from here on, `left` reads before the count's k-th growth. -/
def clockFrom : Nat → Nat → Nat → Nat
  | 0, k, 0 => clockGrow k + 1
  | 0, _, _ + 1 => 0
  | n + 1, k, 0 => clockFrom n (k + 1) (clockPause (k + 1))
  | n + 1, k, left + 1 => clockFrom n k left

/-- By how much the millisecond count has grown at the n-th clock read that no listed input covers: a free
sequence of naturals, since the count "never decreases between reads", with no last growth, which is the
weak fairness of time that R60 and R351 assume. Every such sequence is one choice of `clockPause` and
`clockGrow`; nothing else is fixed (assumption 3). -/
def clockStep (n : Nat) : Nat := clockFrom n 0 (clockPause 0)

/-- FREE VALUE (assumption 4): the n-th draw between racing values of a buffer byte (R94, R345). -/
opaque raceChoice : Nat → Nat

end Config

end Sys2Proof
end

