-- ==== Sys2Proof/Syntax.lean ====
section
/-! DEFINITION. The instructions: one constructor per row of spec/opcode_table.json, in the table's
order. The block has no instruction set (R1); its rows are the host operations (R102), the SD command
frames (R106), the bytes it sends (R110, R118) and the bytes it recognises (R108, R111, R112). -/

namespace Sys2Proof

/-- The rows of the opcode table, with every field the table gives a row. -/
inductive Instr where
  /-- NOP, OPC 0x0 (R285). -/
  | nop
  /-- INIT, OPC 0x1 (R190). -/
  | init
  /-- READ_BLOCKS, OPC 0x2 (R228). -/
  | readBlocks
  /-- WRITE_BLOCKS, OPC 0x3 (R228). -/
  | writeBlocks
  /-- BLOCK_COUNT, OPC 0x4 (R260). -/
  | blockCount
  /-- RESERVED_5, OPC 0x5 (R286). -/
  | reserved5
  /-- RESERVED_6_7, OPC 0b011 ++ `low` (R286). -/
  | reserved67 (low : BitVec 1)
  /-- RESERVED_8_F, OPC 0b1 ++ `low` (R286). -/
  | reserved8F (low : BitVec 3)
  /-- CMD0, reset (R192). -/
  | cmd0
  /-- CMD8, interface condition (R193). -/
  | cmd8
  /-- CMD9, read CSD (R260). -/
  | cmd9
  /-- CMD12, stop transmission (R230). -/
  | cmd12
  /-- CMD16, set block length (R196). -/
  | cmd16
  /-- CMD17, read single block: argument and CRC-7 field of its frame (R104, R229). -/
  | cmd17 (addr : Word) (crc : BitVec 7)
  /-- CMD18, read multiple blocks (R230). -/
  | cmd18 (addr : Word) (crc : BitVec 7)
  /-- CMD24, write single block (R231). -/
  | cmd24 (addr : Word) (crc : BitVec 7)
  /-- CMD25, write multiple blocks (R232). -/
  | cmd25 (addr : Word) (crc : BitVec 7)
  /-- CMD41, send op cond, after CMD55 (R194). -/
  | cmd41
  /-- CMD55, application command prefix (R194). -/
  | cmd55
  /-- CMD58, read OCR (R195). -/
  | cmd58
  /-- TOKEN_START_BLOCK 0xFE, sent before a single-block write, awaited before a read block (R110). -/
  | tokenStartBlock
  /-- TOKEN_START_MULTI_WRITE 0xFC (R226). -/
  | tokenStartMultiWrite
  /-- TOKEN_STOP_MULTI_WRITE 0xFD (R227). -/
  | tokenStopMultiWrite
  /-- FILL 0xFF, every receive-only exchange (R118). -/
  | fill
  /-- R1_RECOGNISE: a received byte with bit 7 clear, `status` its bits 6:0 (R108). -/
  | r1Recognise (status : BitVec 7)
  /-- DATA_RESPONSE_ACCEPTED: a received byte `high` ++ 0b00101 (R111). -/
  | dataResponseAccepted (high : BitVec 3)
  /-- CARD_READY: a received 0xFF during a ready wait (R112). -/
  | cardReady
  deriving DecidableEq, Repr

/-- The twelve SD commands the core emits (R106). -/
inductive Cmd where
  | cmd0 | cmd8 | cmd9 | cmd12 | cmd16 | cmd17 | cmd18 | cmd24 | cmd25 | cmd41 | cmd55 | cmd58
  deriving DecidableEq, Repr

end Sys2Proof
end

