-- ==== Sys2Proof/Machine/Crc.lean ====
section
/-! DEFINITION. The CRC-7 and CRC-16 generators (R160, R223) and the assembly of a command frame
(R104, R161). -/

namespace Sys2Proof.Machine

/-- One bit of the CRC-7 generator (R160): feedback is the data bit XOR register bit 6. -/
def crc7Bit (crc : BitVec 7) (d : Bool) : BitVec 7 :=
  if (d ^^ crc.getLsbD 6) then (crc <<< 1) ^^^ Config.crc7Poly else crc <<< 1

/-- One byte of the CRC-7 generator, most significant bit first (R160). -/
def crc7Byte (crc : BitVec 7) (b : Byte) : BitVec 7 :=
  [7, 6, 5, 4, 3, 2, 1, 0].foldl (fun c i => crc7Bit c (b.getLsbD i)) crc

/-- `crc7`: register cleared to 0, bytes in order, no final XOR (R160). -/
def crc7Of (bytes : List Byte) : BitVec 7 :=
  bytes.foldl crc7Byte 0#7

/-- One shift of the CRC-16 generator (R223). -/
def crc16Shift (crc : BitVec 16) : BitVec 16 :=
  if crc.getLsbD 15 then (crc <<< 1) ^^^ Config.crc16Poly else crc <<< 1

/-- `crc16_step`: one byte of the CRC-16 generator (R223, R225). -/
def crc16Step (crc : BitVec 16) (b : Byte) : BitVec 16 :=
  Nat.repeat crc16Shift 8 (crc ^^^ (b.setWidth 16 <<< 8))

/-- `crc16_of`: register cleared to 0, bytes in order, no final XOR (R223). -/
def crc16Of (bytes : List Byte) : BitVec 16 :=
  bytes.foldl crc16Step 0#16

/-- The command index (R106). -/
def cmdIndex : Cmd → BitVec 6
  | .cmd0 => 0#6
  | .cmd8 => 8#6
  | .cmd9 => 9#6
  | .cmd12 => 12#6
  | .cmd16 => 16#6
  | .cmd17 => 17#6
  | .cmd18 => 18#6
  | .cmd24 => 24#6
  | .cmd25 => 25#6
  | .cmd41 => 41#6
  | .cmd55 => 55#6
  | .cmd58 => 58#6

/-- Frame byte 0, `0x40 | index`: start bit 0, transmission bit 1, index (R104). -/
def frameByte0 (index : BitVec 6) : Byte := 0b01#2 ++ index

/-- Frame byte 5: the CRC-7 and the end bit 1 (R104). -/
def frameByte5 (crc : BitVec 7) : Byte := crc ++ 1#1

/-- Frame bytes 0 to 4: `0x40 | index`, then the argument most significant byte first (R83, R104). -/
def frameHead (index : BitVec 6) (arg : Word) : List Byte :=
  [frameByte0 index, arg.extractLsb' 24 8, arg.extractLsb' 16 8, arg.extractLsb' 8 8,
    arg.extractLsb' 0 8]

/-- The CRC-7 of a command (R104, R160). -/
def frameCrc (index : BitVec 6) (arg : Word) : BitVec 7 := crc7Of (frameHead index arg)

/-- `build_frame`: the six bytes in transmission order (R104, R161). -/
def buildFrame (index : BitVec 6) (arg : Word) : Vector Byte 6 :=
  #v[frameByte0 index, arg.extractLsb' 24 8, arg.extractLsb' 16 8, arg.extractLsb' 8 8,
    arg.extractLsb' 0 8, frameByte5 (frameCrc index arg)]

end Sys2Proof.Machine
end

