-- ==== Sys2Proof/Machine/State.lean ====
section
/-! DEFINITION. The state: everything 10_state.md gives the block, the host buffer memory, the wire trace,
and the free inputs around the block, all plain data; the state after reset; the reasons a step stops. -/

namespace Sys2Proof.Machine

/-- `phase`, the session state (R42). -/
inductive Phase where
  | uninit | initializing | ready | failed
  deriving DecidableEq, Repr

/-- `block_scale : {1, 512}` (R43). -/
inductive BlockScale where
  /-- 1: a block-addressed card (SDHC, SDXC). -/
  | block
  /-- 512: a byte-addressed card. -/
  | byte
  deriving DecidableEq, Repr

/-- The result codes that are produced (R300); 14 and 15 never are. -/
inductive ResultCode where
  | ok | noCard | initTimeout | setBlocklenFailed | readError | writeError | dataTokenTimeout
  | dataRejected | writeTimeout | invalidBufferLength | commandTimeout | notReady | illegalOp
  | addressOverflow
  deriving DecidableEq, Repr

/-- `op_latch` (R46). -/
structure OpLatch where
  opc  : BitVec 4
  bn   : Word
  len  : Word
  base : Word
  ws   : Word
  deriving DecidableEq, Repr

/-- `CmdResult = Resp(r) | Timeout` (R12). -/
inductive CmdResult where
  | resp (r : Byte)
  | timeout
  deriving DecidableEq, Repr

/-- What a four-byte payload is for (R109): CMD8's echo, discarded, or CMD58's OCR. -/
inductive Payload where
  | echo | ocr
  deriving DecidableEq, Repr

/-- Where a received data block goes (R224): the host buffer (512 bytes) or `csd` (16 bytes). -/
inductive Dest where
  | buffer | csd
  deriving DecidableEq, Repr

/-- What follows an END (R147): the end of INIT (R197, R198), of a block operation (R229 to R233), or of
BLOCK_COUNT with its count (R260). -/
inductive Ending where
  | initOk
  | initFail (code : ResultCode)
  | blockIo (code : ResultCode)
  | count (v : BitVec 33)
  deriving DecidableEq, Repr

/-- `seq`, the sequencer control point, an explicit continuation (R47). A point names what the core does
in its NEXT step: at most one bus event, clock read or group of state writes (R92; assumption 1). -/
inductive Seq where
  /-- No operation in progress. -/
  | idle
  /-- INIT's first two assignments (R190). -/
  | initEntry
  /-- Step 1: `reconfigure(F_INIT_HZ)` (R191). -/
  | initSpeed
  /-- Step 1: `deselect()` (R191). -/
  | initDeselect
  /-- Step 1: `left` filler exchanges to go (R191). -/
  | initFill (left : Nat)
  /-- The call of `send_command` for the command `c` of an operation: its `deselect()` (R163). -/
  | issue (c : Cmd)
  /-- `send_command`: `pad()` (R163). -/
  | cmdPad (c : Cmd) (arg : Word)
  /-- `send_command`: `select()` (R163). -/
  | cmdSelect (c : Cmd) (arg : Word)
  /-- The ready wait before the frame: `t0 <- now()` (R162). -/
  | cmdT0 (c : Cmd) (arg : Word)
  /-- The ready wait: its exchange (R162). -/
  | cmdPoll (c : Cmd) (arg : Word)
  /-- The ready wait: its tests (R162). -/
  | cmdReady (c : Cmd) (arg : Word)
  /-- `build_frame` (R161). -/
  | cmdFrame (c : Cmd) (arg : Word)
  /-- `write(cmd_frame)`: byte `i` (R149, R163). -/
  | cmdSend (c : Cmd) (i : Fin 6)
  /-- `collect_r1`: its exchange (R165). -/
  | r1Poll (c : Cmd)
  /-- `collect_r1`: its tests (R165). -/
  | r1Test (c : Cmd)
  /-- The caller's test of the `CmdResult` (R12). -/
  | got (c : Cmd) (res : CmdResult)
  /-- `recv_payload4`: byte `k` (R164). -/
  | payload (p : Payload) (k : Fin 4)
  /-- `delay(T_ACMD41_DELAY_MS)`: `t0 <- now()` (R150, R194). -/
  | delayT0
  /-- `delay`: its test (R150). -/
  | delayTest
  /-- Step 5: `block_scale` from the OCR (R195). -/
  | ocrTest
  /-- `recv_block`: `t0 <- now()` (R224). -/
  | tokT0 (d : Dest)
  /-- `recv_block`: the token poll's exchange (R224). -/
  | tokPoll (d : Dest)
  /-- `recv_block`: the token poll's tests (R224). -/
  | tokTest (d : Dest)
  /-- `read_into`: byte `idx` (R151). -/
  | dataRecv (d : Dest)
  /-- The two CRC bytes of a received block, the first or the second (R224). -/
  | crcRecv (d : Dest) (second : Bool)
  /-- `send_block`: the token (R225, R226). -/
  | tokenOut
  /-- `send_block`: data byte `idx` (R225). -/
  | dataSend
  /-- `send_block`: CRC bits 15:8 (R225). -/
  | crcHi
  /-- `send_block`: CRC bits 7:0 (R225). -/
  | crcLo
  /-- `send_block`: the data-response exchange (R225). -/
  | respPoll
  /-- `send_block`: the data-response test (R225). -/
  | respTest
  /-- The ready wait after a block: `t0 <- now()` (R162, R225). -/
  | wrT0
  /-- The ready wait after a block: its exchange (R162). -/
  | wrPoll
  /-- The ready wait after a block: its tests (R162). -/
  | wrReady
  /-- The stop token (R227). -/
  | stopToken
  /-- END: `deselect()` (R147). -/
  | endDeselect (k : Ending)
  /-- END: `pad()` (R147). -/
  | endPad (k : Ending)
  /-- Step 7: `reconfigure(ws)` (R197). -/
  | initRaise
  /-- Step 7: `phase <- READY` (R197). -/
  | initDone
  /-- `init_fail`: `phase <- FAILED` (R198). -/
  | initFailed (code : ResultCode)
  /-- `bc_done`: the count registers (R260). -/
  | countWrite (v : BitVec 33)
  /-- `finish(code)` (R317). -/
  | fin (code : ResultCode)
  deriving DecidableEq, Repr

/-- An event of the wire trace (R141). -/
inductive BusEvent where
  /-- `CS(v)`: the new level of the select output, `true` is 1 (deselected). -/
  | cs (v : Bool)
  /-- `SPD(f)`. -/
  | spd (f : Word)
  /-- `XCHG(t, r)`: byte out, byte in. -/
  | xchg (t r : Byte)
  deriving DecidableEq, Repr

/-- The width of a host access to the register port (R41, R88). -/
inductive AccessWidth where
  | byte | half | word
  deriving DecidableEq, Repr

/-- Which kind of buffer access HOST_MEM_ADMIT is asked about (R90). -/
inductive AccessKind where
  | read | write
  deriving DecidableEq, Repr

/-- One turn of the schedule: whose turn it is, and what the host or the platform does in it
(assumption 5). -/
inductive Turn where
  /-- The core takes its next step. -/
  | core
  /-- `HostWrite(off, w)` (R280). -/
  | hostWrite (off : Word) (width : AccessWidth) (w : Word)
  /-- `HostRead(off)` (R283). -/
  | hostRead (off : Word) (width : AccessWidth)
  /-- The host stores a byte of its own memory (R94, R287). -/
  | memWrite (addr : Word) (v : Byte)
  /-- The host loads a byte of its own memory (R94, R287). -/
  | memRead (addr : Word)
  /-- A turn of the reset input, which leaves it at the level named; `true` is asserted (R340). Where the
  input has that level already the block is reset all the same (DESIGN CHOICE, assumption 16). -/
  | resetPin (asserted : Bool)
  deriving DecidableEq, Repr

/-- The free inputs around the block. Each list is what comes next; where a list is empty, the free
values of Config take over, indexed by the counter beside it. -/
structure Env where
  /-- Whose turn comes next (assumption 5). -/
  turns : List Turn
  /-- The card's next bytes (R57; assumption 2). -/
  card : List Byte
  /-- How many bytes the card has answered. -/
  cardDrawn : Nat
  /-- By how much the millisecond count grows at the next clock reads (R60; assumption 3). -/
  clockIn : List Nat
  /-- How many clock reads were made. -/
  clockReads : Nat
  /-- The millisecond count at the last clock read, before reduction mod 2^32 (R60). -/
  clock : Nat
  /-- The next draws between racing values (R94; assumption 4). -/
  choices : List Nat
  /-- How many such draws were made. -/
  choicesDrawn : Nat
  deriving DecidableEq, Repr

/-- A byte a READ_BLOCKS stored (R94, R345). -/
structure CoreWrite where
  addr : Word
  /-- The value the store replaced. -/
  old : Byte
  /-- The byte received from the card, whichever byte the store left. -/
  card : Byte
  deriving DecidableEq, Repr

/-- A load the host made of its own memory, and what it saw (R94). -/
structure HostLoad where
  addr : Word
  seen : Byte
  /-- Whether the load is of a READ_BLOCKS byte still to be received: `seen` is then the old value, until
  the byte is received and the load is drawn (see `State.settleLoads`; assumption 4). -/
  waiting : Bool
  deriving DecidableEq, Repr

/-- What races for the buffer of the operation in progress (R94, R345; assumption 4). -/
structure Race where
  /-- How many buffer bytes the operation has accessed, in order (R92). -/
  done : Nat
  /-- Bytes the host stored before the core's access, each with the value it replaced. -/
  hostWrote : List (Word × Byte)
  /-- Bytes a READ_BLOCKS stored. -/
  coreWrote : List CoreWrite
  deriving DecidableEq, Repr

/-- Host buffer memory: sorted address and byte pairs in one canonical form (see `Memory.wf`). -/
abbrev Memory := List Host.Cell

/-- The state of the machine. -/
structure State where
  /-- The sequencer control point (R47); STATUS.BUSY is `seq ≠ idle` (R37). -/
  seq : Seq
  /-- BLOCK_NUMBER (R33). -/
  blockNumber : Word
  /-- LENGTH (R34). -/
  length : Word
  /-- BUF_BASE (R35). -/
  bufBase : Word
  /-- WORK_SPEED (R36). -/
  workSpeed : Word
  /-- STATUS.RESULT (R37, R300). -/
  result : ResultCode
  /-- STATUS.LAST_OP (R37). -/
  lastOp : BitVec 4
  /-- BLOCK_COUNT_HI bit 0 and BLOCK_COUNT_LO, the 33-bit `bc` (R38). -/
  blockCount : BitVec 33
  /-- `phase` (R42). -/
  phase : Phase
  /-- `block_scale` (R43). -/
  blockScale : BlockScale
  /-- `bus_speed`, the speed output and BUS_SPEED (R39, R44). -/
  busSpeed : Word
  /-- `cs_n`, the level of the select output; `true` is 1, deselected (R45). -/
  csN : Bool
  /-- `op_latch` (R46). -/
  opLatch : OpLatch
  /-- `cmd_frame` (R48). -/
  cmdFrame : Vector Byte 6
  /-- `r1_tries` (R49). -/
  r1Tries : Nat
  /-- `r1` (R49). -/
  r1 : Byte
  /-- `crc7` (R50). -/
  crc7 : BitVec 7
  /-- `crc16` (R51). -/
  crc16 : BitVec 16
  /-- `acmd41_iter` (R52). -/
  acmd41Iter : Nat
  /-- `t0` (R53). -/
  t0 : Word
  /-- `blk` (R54). -/
  blk : Word
  /-- `idx` (R54). -/
  idx : Nat
  /-- `csd` (R55). -/
  csd : Vector Byte 16
  /-- `ocr` (R56). -/
  ocr : Vector Byte 4
  /-- The model's own: the byte the last exchange received (R142), held for the step that tests it. -/
  rx : Byte
  /-- The level of the reset input (R58, R340). -/
  resetIn : Bool
  /-- Host buffer memory (R81). -/
  mem : Memory
  /-- The wire trace, NEWEST event first (R141; assumption 20). -/
  trace : List BusEvent
  /-- The model's own: what races for the buffer. -/
  race : Race
  /-- The model's own: what the host's last register read returned (R283). -/
  hostRd : Word
  /-- The model's own: the host's loads of its own memory and what each saw, newest first (R94). -/
  hostLoads : List HostLoad
  /-- The model's own: the free inputs. -/
  env : Env
  /-- The parameters of R7. -/
  params : Params
  deriving DecidableEq, Repr

/-- The machine right after reset: the reset summary of 10_state.md section 6 and R340. The transient
registers R48 to R56, whose reset value the spec leaves unspecified, hold zero (DESIGN CHOICE,
assumption 10); the free inputs list nothing (assumptions 2 to 5). -/
def State.reset : State where
  seq := .idle
  blockNumber := 0#32
  length := 0#32
  bufBase := 0#32
  workSpeed := 0#32
  result := .ok
  lastOp := 0#4
  blockCount := 0#33
  phase := .uninit
  blockScale := .byte
  busSpeed := Config.defaultParams.fInitHz
  csN := true
  opLatch := { opc := 0#4, bn := 0#32, len := 0#32, base := 0#32, ws := 0#32 }
  cmdFrame := #v[0#8, 0#8, 0#8, 0#8, 0#8, 0#8]
  r1Tries := 0
  r1 := 0#8
  crc7 := 0#7
  crc16 := 0#16
  acmd41Iter := 0
  t0 := 0#32
  blk := 0#32
  idx := 0
  csd := #v[0#8, 0#8, 0#8, 0#8, 0#8, 0#8, 0#8, 0#8, 0#8, 0#8, 0#8, 0#8, 0#8, 0#8, 0#8, 0#8]
  ocr := #v[0#8, 0#8, 0#8, 0#8]
  rx := 0#8
  resetIn := false
  mem := []
  trace := []
  race := { done := 0, hostWrote := [], coreWrote := [] }
  hostRd := 0#32
  hostLoads := []
  env := { turns := [], card := [], cardDrawn := 0, clockIn := [], clockReads := 0, clock := 0,
           choices := [], choicesDrawn := 0 }
  params := Config.defaultParams

/-- Why a step stops the machine. -/
inductive Fault where
  /-- Raised by the core's buffer access (`State.coreStore`, `State.coreLoad`) at an address HOST_MEM_ADMIT
  refuses: the core is stuck there (R151, R351 (c), D7). Safe: the host's own turns go on on the hardware
  and in the model, the core's do not in either (assumption 8). -/
  | hostAccessRefused (addr : Word) (kind : AccessKind)
  deriving DecidableEq, Repr

/-- Why a step has no meaning. -/
inductive Refusal where
  /-- Raised by an arm of `exec` whose instruction has no meaning yet; no arm is left so. Safe. -/
  | notModelled (mnemonic : String)
  /-- Raised by `unmatched` for an encoding the core sends that the decoder refuses; the core sends none
  (its frames and tokens all decode), so no step raises it. Safe. -/
  | undecodable
  deriving DecidableEq, Repr

/-- The outcome of a step or of a meaning. -/
abbrev Outcome := Host.Outcome State Fault Refusal

end Sys2Proof.Machine
end

