-- ==== Sys2Proof/Machine/Operands.lean ====
section
/-! DEFINITION. Operand forms: the block-address translator and its overflow test (R220, R221), the block
count of a buffer (R222), buffer addresses (R81), and the argument of each command (R106). -/

namespace Sys2Proof.Machine

/-- The number `block_scale` (R43). -/
def BlockScale.value : BlockScale → Nat
  | .block => 1
  | .byte => 512

/-- `card_addr(bn) = bn * block_scale`; exact where `addrOverflow` does not hold (R220). -/
def cardAddr (scale : BlockScale) (bn : Word) : Word :=
  BitVec.ofNat 32 (bn.toNat * scale.value)

/-- `addr_overflow(bn) := bn * block_scale > 0xFFFFFFFF`, over the naturals (R221). -/
def addrOverflow (scale : BlockScale) (bn : Word) : Bool :=
  decide (bn.toNat * scale.value > 0xFFFFFFFF)

/-- `n = len / 512` (R222). -/
def blocksIn (len : Word) : Nat := len.toNat / Config.blockSize

/-- The number of blocks of the operation in progress (R222). -/
def State.nBlocks (s : State) : Nat := blocksIn s.opLatch.len

/-- The host address of byte `idx` of block `blk`: `(base + 512*k + j) mod 2^32` (R81). -/
def State.bufAddr (s : State) : Word :=
  s.opLatch.base + 512#32 * s.blk + BitVec.ofNat 32 s.idx

/-- The argument of a command (R106). -/
def State.cmdArg (s : State) : Cmd → Word
  | .cmd0 | .cmd9 | .cmd12 | .cmd55 | .cmd58 => 0#32
  | .cmd8 => Config.cmd8Arg
  | .cmd16 => Config.cmd16Arg
  | .cmd41 => Config.acmd41Arg
  | .cmd17 | .cmd18 | .cmd24 | .cmd25 => cardAddr s.blockScale s.opLatch.bn

/-- How many data bytes a received block has (R113). -/
def Dest.size : Dest → Nat
  | .buffer => Config.blockSize
  | .csd => Config.csdSize

/-- The place of an address in the buffer of the operation in progress: `(a - base) mod 2^32` (R81). -/
def State.bufOffset (s : State) (a : Word) : Nat := (a - s.opLatch.base).toNat

/-- Whether an address lies in that buffer, `[base, base+len)` mod 2^32 (R345). -/
def State.inBuffer (s : State) (a : Word) : Bool :=
  decide (s.bufOffset a < s.opLatch.len.toNat)

/-- Whether a region of the admission map allows an access (R90). -/
def Region.allows (r : Region) (addr : Nat) (kind : AccessKind) : Bool :=
  decide (r.base ≤ addr) && decide (addr < r.base + r.size) &&
    (match kind with
     | .read => r.readable
     | .write => r.writable)

/-- HOST_MEM_ADMIT(addr, kind) (R90, P1). -/
def State.admits (s : State) (addr : Word) (kind : AccessKind) : Bool :=
  s.params.hostMemAdmit.any (fun r => Region.allows r addr.toNat kind)

end Sys2Proof.Machine
end

