-- ==== Sys2Proof/Machine/Flags.lean ====
section
/-! DEFINITION. The host-visible flags and fields: STATUS (R37), the result codes (R300), the bits of the
card's answers that the block tests (R107, R117), and the CSD decode (R261 to R264). -/

namespace Sys2Proof.Machine

/-- STATUS.RESULT (R300). -/
def ResultCode.code : ResultCode → BitVec 4
  | .ok => 0#4
  | .noCard => 1#4
  | .initTimeout => 2#4
  | .setBlocklenFailed => 3#4
  | .readError => 4#4
  | .writeError => 5#4
  | .dataTokenTimeout => 6#4
  | .dataRejected => 7#4
  | .writeTimeout => 8#4
  | .invalidBufferLength => 9#4
  | .commandTimeout => 10#4
  | .notReady => 11#4
  | .illegalOp => 12#4
  | .addressOverflow => 13#4

/-- STATUS.PHASE (R37, R42). -/
def Phase.code : Phase → BitVec 2
  | .uninit => 0#2
  | .initializing => 1#2
  | .ready => 2#2
  | .failed => 3#2

/-- STATUS.BUSY: 1 while `seq ≠ IDLE` (R37). -/
def State.busy (s : State) : Bool := decide (s.seq ≠ .idle)

/-- STATUS.HC: 1 iff `block_scale = 1` (R37). -/
def State.hc (s : State) : Bool := decide (s.blockScale = .block)

/-- STATUS: reserved, LAST_OP, RESULT, HC, PHASE, BUSY from bit 31 down (R37). -/
def State.status (s : State) : Word :=
  0#20 ++ s.lastOp ++ s.result.code ++ BitVec.ofBool s.hc ++ s.phase.code ++ BitVec.ofBool s.busy

/-- R1 bit 2, illegal command (R107, R193). -/
def illegalCommand (r : Byte) : Bool := r.getLsbD 2

/-- OCR byte 0 bit 6 (R117, R195): the scale it selects. -/
def scaleOfOcr (ocr : Vector Byte 4) : BlockScale :=
  if ocr[0].getLsbD 6 then .block else .byte

/-- `C_SIZE2`, 22 bits (R115). -/
def csdSize2 (csd : Vector Byte 16) : BitVec 22 :=
  csd[7].extractLsb' 0 6 ++ csd[8] ++ csd[9]

/-- `C_SIZE1`, 12 bits (R116). -/
def csdSize1 (csd : Vector Byte 16) : BitVec 12 :=
  csd[6].extractLsb' 0 2 ++ csd[7] ++ csd[8].extractLsb' 6 2

/-- `C_SIZE_MULT`, 3 bits (R116). -/
def csdMult (csd : Vector Byte 16) : BitVec 3 :=
  csd[9].extractLsb' 0 2 ++ csd[10].extractLsb' 7 1

/-- `decode_v2`: `(size + 1) * 1024`, exact in 33 bits (R262). -/
def decodeV2 (csd : Vector Byte 16) : BitVec 33 :=
  BitVec.ofNat 33 (((csdSize2 csd).toNat + 1) * 1024)

/-- `decode_v1`: `(size + 1) << (mult + 2)`, exact in 33 bits (R263). -/
def decodeV1 (csd : Vector Byte 16) : BitVec 33 :=
  BitVec.ofNat 33 (((csdSize1 csd).toNat + 1) * 2 ^ ((csdMult csd).toNat + 2))

/-- `csd_decode`: the layout by the top two bits of byte 0; 10 and 11 give 0 (R261, R264). -/
def csdDecode (csd : Vector Byte 16) : BitVec 33 :=
  if csd[0].extractLsb' 6 2 = 0b01#2 then decodeV2 csd
  else if csd[0].extractLsb' 6 2 = 0b00#2 then decodeV1 csd
  else 0#33

end Sys2Proof.Machine
end

