-- ==== Sys2Proof/Machine/Ops.lean ====
section
/-! DEFINITION. The named operations every meaning is built from: host buffer memory, the bus primitives
of 40_bus_transport.md, the clock, `send_command`, the END sequences, `finish` (the block's form of
taking an exception, R317; there is no return from one, R318), and reset. -/

namespace Sys2Proof.Machine

/-- What a byte of host memory reads as that nothing has written (DESIGN CHOICE, unsafe, assumption 9). -/
def Memory.blank : Byte := 0x00#8

/-- One byte of host memory. -/
def Memory.read : Memory → Nat → Byte
  | [], _ => Memory.blank
  | (k, v) :: rest, a => if k = a then v else Memory.read rest a

/-- Store one byte, keeping the canonical form: storing what an unlisted byte reads as removes it. -/
def Memory.write : Memory → Nat → Byte → Memory
  | [], a, v => if v = Memory.blank then [] else [(a, v)]
  | (k, w) :: rest, a, v =>
    if a < k then (if v = Memory.blank then (k, w) :: rest else (a, v) :: (k, w) :: rest)
    else if a = k then (if v = Memory.blank then rest else (a, v) :: rest)
    else (k, w) :: Memory.write rest a v

/-- The canonical form from address `lo` on: rising addresses below 2^32, no blank byte listed. -/
def Memory.wfFrom : Nat → Memory → Bool
  | _, [] => true
  | lo, (k, v) :: rest =>
    decide (lo ≤ k) && decide (k < 4294967296) && decide (v ≠ Memory.blank) &&
      Memory.wfFrom (k + 1) rest

/-- The canonical form. -/
def Memory.wf (m : Memory) : Bool := Memory.wfFrom 0 m

/-- A byte of the host buffer memory at a 32-bit address (R81). -/
def State.memRead (s : State) (a : Word) : Byte := s.mem.read a.toNat

/-- Store a byte of the host buffer memory (R81). -/
def State.memWrite (s : State) (a : Word) (v : Byte) : State :=
  { s with mem := s.mem.write a.toNat v }

/-- `seq <- q` (R47). -/
def State.setSeq (s : State) (q : Seq) : State := { s with seq := q }

/-- The schedule goes on with `rest` (assumption 5). -/
def State.dropTurn (s : State) (rest : List Turn) : State :=
  { s with env := { s.env with turns := rest } }

/-- Record an event of the wire trace (R141). -/
def State.record (s : State) (e : BusEvent) : State := { s with trace := e :: s.trace }

/-- `CardOracle()`: the card's next byte, any byte, into `rx` (R57, R142; assumption 2). -/
def State.drawCard (s : State) : State :=
  match s.env.card with
  | b :: rest =>
    { s with rx := b, env := { s.env with card := rest, cardDrawn := s.env.cardDrawn + 1 } }
  | [] =>
    { s with rx := Config.cardByte s.env.cardDrawn,
             env := { s.env with cardDrawn := s.env.cardDrawn + 1 } }

/-- `exchange1(t)`: one full-duplex exchange; the received byte is in `rx` after it (R142). -/
def State.exchange1 (s : State) (t : Byte) : State :=
  let s' := s.drawCard
  s'.record (.xchg t s'.rx)

/-- `select()` (R144). -/
def State.select (s : State) : State := { s with csN := false, trace := .cs false :: s.trace }

/-- `deselect()` (R145). -/
def State.deselect (s : State) : State := { s with csN := true, trace := .cs true :: s.trace }

/-- `reconfigure(f)` (R148). -/
def State.reconfigure (s : State) (f : Word) : State :=
  { s with busSpeed := f, trace := .spd f :: s.trace }

/-- A clock read: the count grows by a free increment, never decreasing, and by weak fairness it does not
stand still for ever (R60, R351; assumption 3). -/
def State.readClock (s : State) : State :=
  match s.env.clockIn with
  | d :: rest =>
    { s with env := { s.env with clockIn := rest, clockReads := s.env.clockReads + 1,
                                 clock := s.env.clock + d } }
  | [] =>
    { s with env := { s.env with clockReads := s.env.clockReads + 1,
                                 clock := s.env.clock + Config.clockStep s.env.clockReads } }

/-- `now_ms`: the count of the last clock read, mod 2^32 (R60). -/
def State.nowMs (s : State) : Word := BitVec.ofNat 32 s.env.clock

/-- `t0 <- now()` (R53). -/
def State.sampleT0 (s : State) : State :=
  let s' := s.readClock
  { s' with t0 := s'.nowMs }

/-- `((now - t0) mod 2^32) >= limit`, at the clock read just made (R150, R162, R224). -/
def State.elapsed (s : State) (limit : Word) : Bool :=
  decide (limit.toNat ≤ (s.nowMs - s.t0).toNat)

/-- The call of `send_command(index, arg)`, up to and with its first event, `deselect()` (R163). -/
def State.sendCommand (s : State) (c : Cmd) (arg : Word) : State :=
  s.deselect.setSeq (.cmdPad c arg)

/-- `init_fail(code)`: END, then FAILED, then `finish(code)` (R198). -/
def State.initFail (s : State) (code : ResultCode) : State :=
  s.setSeq (.endDeselect (.initFail code))

/-- `io_fail(code)`, and the same way out with OK: END, then `finish(code)` (R229 to R233). -/
def State.ioEnd (s : State) (code : ResultCode) : State :=
  s.setSeq (.endDeselect (.blockIo code))

/-- `bc_done(v)`: END, then the count registers, then `finish(OK)` (R260). -/
def State.countEnd (s : State) (v : BitVec 33) : State :=
  s.setSeq (.endDeselect (.count v))

/-- `finish(code)`, the termination of an operation, the block's form of taking an exception (R317):
RESULT <- code, BUSY <- 0 and seq <- IDLE (BUSY is computed from seq). -/
def State.finish (s : State) (code : ResultCode) : State :=
  { s with result := code, seq := .idle }

/-- What follows END (R197, R198, R229 to R233, R260). -/
def State.afterEnd (s : State) : Ending → State
  | .initOk => s.setSeq .initRaise
  | .initFail code => s.setSeq (.initFailed code)
  | .blockIo code => s.setSeq (.fin code)
  | .count v => s.setSeq (.countWrite v)

/-- A new ACMD41 attempt: count it and issue CMD55 (R194). -/
def State.startAttempt (s : State) : State :=
  { s with acmd41Iter := s.acmd41Iter + 1, seq := .issue .cmd55 }

/-- Step 6: CMD16 for a byte-addressed card, else straight to step 7's END (R196, R197). -/
def State.step6 (s : State) : State :=
  match s.blockScale with
  | .byte => s.setSeq (.issue .cmd16)
  | .block => s.setSeq (.endDeselect .initOk)

/-- A data block of a READ_BLOCKS has been received (R229, R230): END after a single block; else the
next block, or CMD12 after the last. -/
def State.blockReceived (s : State) : State :=
  if s.nBlocks ≤ 1 then s.ioEnd .ok
  else if s.blk.toNat + 1 < s.nBlocks then { s with blk := s.blk + 1#32, seq := .tokT0 .buffer }
  else s.setSeq (.issue .cmd12)

/-- A data block of a WRITE_BLOCKS was accepted and the card is ready again (R231, R232): END after a
single block; else the next block's token, or the stop token after the last. -/
def State.blockSent (s : State) : State :=
  if s.nBlocks ≤ 1 then s.ioEnd .ok
  else if s.blk.toNat + 1 < s.nBlocks then { s with blk := s.blk + 1#32, seq := .tokenOut }
  else s.setSeq .stopToken

/-- Reset (R340): every piece of the block's state takes its reset value. The host memory, the card, the
clock and the parameters are not the block's and stay; "Reset is not a bus event". -/
def State.applyReset (s : State) (asserted : Bool) : State :=
  { State.reset with
    busSpeed := s.params.fInitHz
    resetIn := asserted
    mem := s.mem
    trace := s.trace
    hostRd := s.hostRd
    hostLoads := s.hostLoads
    env := s.env
    params := s.params }

end Sys2Proof.Machine
end

