-- ==== Sys2Proof/Machine/Commands.lean ====
section
/-! DEFINITION. The SD command frames: each is `send_command(index, arg)` (R163), started here with its
first event and carried on by the points `cmdPad` to `r1Test` of the sequencer; and what the caller of
each command does with its `CmdResult` (R12). -/

namespace Sys2Proof.Machine

/-- CMD0, argument 0 (R192). -/
def execCmd0 (s : State) : Outcome := .next (s.sendCommand .cmd0 0#32)
/-- CMD8, argument 0x1AA (R193). -/
def execCmd8 (s : State) : Outcome := .next (s.sendCommand .cmd8 Config.cmd8Arg)
/-- CMD9, argument 0 (R260). -/
def execCmd9 (s : State) : Outcome := .next (s.sendCommand .cmd9 0#32)
/-- CMD12, argument 0, the no-data-response variant: its END follows its result (R166, R230). -/
def execCmd12 (s : State) : Outcome := .next (s.sendCommand .cmd12 0#32)
/-- CMD16, argument 512 (R196). -/
def execCmd16 (s : State) : Outcome := .next (s.sendCommand .cmd16 Config.cmd16Arg)
/-- CMD17, argument a card address (R229). -/
def execCmd17 (addr : Word) (s : State) : Outcome := .next (s.sendCommand .cmd17 addr)
/-- CMD18, argument a card address (R230). -/
def execCmd18 (addr : Word) (s : State) : Outcome := .next (s.sendCommand .cmd18 addr)
/-- CMD24, argument a card address (R231). -/
def execCmd24 (addr : Word) (s : State) : Outcome := .next (s.sendCommand .cmd24 addr)
/-- CMD25, argument a card address (R232). -/
def execCmd25 (addr : Word) (s : State) : Outcome := .next (s.sendCommand .cmd25 addr)
/-- CMD41, argument bit 30 (R194). -/
def execCmd41 (s : State) : Outcome := .next (s.sendCommand .cmd41 Config.acmd41Arg)
/-- CMD55, argument 0 (R194). -/
def execCmd55 (s : State) : Outcome := .next (s.sendCommand .cmd55 0#32)
/-- CMD58, argument 0 (R195). -/
def execCmd58 (s : State) : Outcome := .next (s.sendCommand .cmd58 0#32)

/-- Step 2: CMD0 passes on 0x01 and 0x00 only (R192). -/
def State.gotCmd0 (s : State) : CmdResult → State
  | .resp r => if r = 0x01#8 ∨ r = 0x00#8 then s.setSeq (.issue .cmd8) else s.initFail .noCard
  | .timeout => s.initFail .noCard

/-- Step 3: the echo payload iff the illegal-command bit is clear; no outcome fails INIT (R193). -/
def State.gotCmd8 (s : State) : CmdResult → State
  | .resp r => if illegalCommand r then s.startAttempt else s.setSeq (.payload .echo 0)
  | .timeout => s.startAttempt

/-- Step 4: only R1 = 0x00 ends the loop; a delay follows each failed attempt but the 1000th (R194). -/
def State.gotCmd41 (s : State) (res : CmdResult) : State :=
  if res = .resp 0x00#8 then s.setSeq (.issue .cmd58)
  else if s.acmd41Iter < Config.acmd41Budget then s.setSeq .delayT0
  else s.initFail .initTimeout

/-- Step 5: the OCR iff R1 = 0x00, else the fallback 512 (R195). -/
def State.gotCmd58 (s : State) (res : CmdResult) : State :=
  if res = .resp 0x00#8 then s.setSeq (.payload .ocr 0)
  else State.step6 { s with blockScale := .byte }

/-- Step 6: any non-zero status and a timeout fail INIT (R196). -/
def State.gotCmd16 (s : State) (res : CmdResult) : State :=
  if res = .resp 0x00#8 then s.setSeq (.endDeselect .initOk) else s.initFail .setBlocklenFailed

/-- CMD17 and CMD18: COMMAND_TIMEOUT, READ_ERROR, or the first block (R229, R230). -/
def State.gotRead (s : State) : CmdResult → State
  | .timeout => s.ioEnd .commandTimeout
  | .resp r =>
    if r = 0x00#8 then { s with blk := 0#32, seq := .tokT0 .buffer } else s.ioEnd .readError

/-- CMD24 and CMD25: COMMAND_TIMEOUT, WRITE_ERROR, or the first block (R231, R232). -/
def State.gotWrite (s : State) : CmdResult → State
  | .timeout => s.ioEnd .commandTimeout
  | .resp r =>
    if r = 0x00#8 then { s with blk := 0#32, seq := .tokenOut } else s.ioEnd .writeError

/-- CMD9: the CSD block, or the soft failure 0 (R260). -/
def State.gotCmd9 (s : State) (res : CmdResult) : State :=
  if res = .resp 0x00#8 then s.setSeq (.tokT0 .csd) else s.countEnd 0#33

/-- What the caller of a command does with its result. CMD55's and CMD12's are ignored (R194, R230);
CMD12 goes to the END of the no-data variant (R166). -/
def State.gotResult (s : State) (c : Cmd) (res : CmdResult) : State :=
  match c with
  | .cmd0 => s.gotCmd0 res
  | .cmd8 => s.gotCmd8 res
  | .cmd55 => s.setSeq (.issue .cmd41)
  | .cmd41 => s.gotCmd41 res
  | .cmd58 => s.gotCmd58 res
  | .cmd16 => s.gotCmd16 res
  | .cmd17 | .cmd18 => s.gotRead res
  | .cmd24 | .cmd25 => s.gotWrite res
  | .cmd12 => s.ioEnd .ok
  | .cmd9 => s.gotCmd9 res

end Sys2Proof.Machine
end

