-- ==== Sys2Proof/Machine/Buffer.lean ====
section
/-! DEFINITION. Accesses to the host buffer: the core's (R81, R151, R225), the host's (R94, R287), and the
draws between them while an operation runs (R94, R345; assumption 4). -/

namespace Sys2Proof.Machine

/-- One race draw, a free number (assumption 4). -/
def State.drawChoice (s : State) : Nat × State :=
  match s.env.choices with
  | n :: rest =>
    (n, { s with env := { s.env with choices := rest, choicesDrawn := s.env.choicesDrawn + 1 } })
  | [] =>
    (Config.raceChoice s.env.choicesDrawn,
      { s with env := { s.env with choicesDrawn := s.env.choicesDrawn + 1 } })

/-- A draw among racing values: `first` or one of `others`; with no other value there is no draw. -/
def State.drawAmong (s : State) (first : Byte) (others : List Byte) : Byte × State :=
  match others with
  | [] => (first, s)
  | _ :: _ =>
    let (n, s') := s.drawChoice
    ((first :: others).getD (n % (others.length + 1)) first, s')

/-- The values a list of races holds for an address. -/
def racing (races : List (Word × Byte)) (a : Word) : List Byte :=
  (races.filter (fun p => p.1 == a)).map (fun p => p.2)

/-- The host's byte, where the host stored one during the operation (R345). -/
def hostRival (stored : List Byte) (now : Byte) : List Byte :=
  match stored with
  | [] => []
  | _ :: _ => [now]

/-- The old values of an address in a record of the core's stores. -/
def overwritten (stores : List CoreWrite) (a : Word) : List Byte :=
  (stores.filter (fun w => w.addr == a)).map (fun w => w.old)

/-- The card's bytes for an address in a record of the core's stores. -/
def received (stores : List CoreWrite) (a : Word) : List Byte :=
  (stores.filter (fun w => w.addr == a)).map (fun w => w.card)

/-- The host's loads are now `loads`. -/
def State.setLoads (s : State) (loads : List HostLoad) : State := { s with hostLoads := loads }

/-- A new operation is accepted: a load that waited for a byte of the one before keeps its old value. -/
def endWaiting (loads : List HostLoad) : List HostLoad :=
  loads.map (fun l => { l with waiting := false })

/-- The byte `v` for the address `a` has been received: each load in a list that waits for it is drawn, its
old value or `v`, one draw a load (R94, R345). -/
def State.settleEach (s : State) (a : Word) (v : Byte) : List HostLoad → List HostLoad × State
  | [] => ([], s)
  | l :: older =>
    if l.waiting && l.addr == a then
      let (b, s1) := s.drawAmong l.seen [v]
      let (older', s2) := s1.settleEach a v older
      ({ l with seen := b, waiting := false } :: older', s2)
    else
      let (older', s1) := s.settleEach a v older
      (l :: older', s1)

/-- The byte for the address `a` has been received: every host load that waits for it is settled. DESIGN
CHOICE (assumption 4): until then the load shows the old value, and keeps it where the byte is never
received. -/
def State.settleLoads (s : State) (a : Word) (v : Byte) : State :=
  let (loads, s') := s.settleEach a v s.hostLoads
  s'.setLoads loads

/-- `MemWrite(addr, 1, v)` by READ_BLOCKS (R81, R151). An address HOST_MEM_ADMIT refuses leaves the core
stuck (assumption 8). If the host stored to the byte during the operation, the final byte is a draw
between the host's byte, that of its last store, and the card's (R345); the host loads waiting for the
byte are settled. -/
def State.coreStore (s : State) (a : Word) (v : Byte) : Outcome :=
  if s.admits a .write then
    let (b, s') := s.drawAmong v (hostRival (racing s.race.hostWrote a) (s.memRead a))
    .next (State.settleLoads
      { s'.memWrite a b with
        race := { s'.race with
          done := s'.race.done + 1
          coreWrote := { addr := a, old := s.memRead a, card := v } :: s'.race.coreWrote } } a v)
  else .fault (.hostAccessRefused a .write)

/-- `MemRead(addr, 1)` by WRITE_BLOCKS (R81, R225), when HOST_MEM_ADMIT admits it. If the host stored to
the byte during the operation, the byte sent is a draw between the old and the new value (R94). -/
def State.coreLoad (s : State) (a : Word) : Byte × State :=
  let (b, s') := s.drawAmong (s.memRead a) (racing s.race.hostWrote a)
  (b, { s' with race := { s'.race with done := s'.race.done + 1 } })

/-- The opcode of READ_BLOCKS (R102). -/
def opcRead : BitVec 4 := 2#4
/-- The opcode of WRITE_BLOCKS (R102). -/
def opcWrite : BitVec 4 := 3#4

/-- Whether the operation `opc` is in progress and its buffer holds the address (R94, R345). -/
def State.racesWith (s : State) (opc : BitVec 4) (a : Word) : Bool :=
  s.busy && decide (s.opLatch.opc = opc) && s.inBuffer a

/-- The host stores a byte of its own memory. During a WRITE_BLOCKS, and of a byte the core has not yet
accessed, old and new value race; a byte a READ_BLOCKS has already received is a draw between the host's
and the card's (R94, R345). DESIGN CHOICE (assumption 4), where the host stores to one byte several times
while BUSY, which the spec does not treat (R287): of a READ_BLOCKS byte the last store's byte alone races
the card's, whether it comes before the byte is received or after, and an earlier store's byte is out;
of a WRITE_BLOCKS byte every value it held races. -/
def State.hostStore (s : State) (a : Word) (v : Byte) : State :=
  if s.racesWith opcRead a && decide (s.bufOffset a < s.race.done) then
    let (b, s') := s.drawAmong v (received s.race.coreWrote a)
    s'.memWrite a b
  else if (s.racesWith opcRead a || s.racesWith opcWrite a)
      && decide (s.race.done ≤ s.bufOffset a) then
    { s.memWrite a v with
      race := { s.race with hostWrote := (a, s.memRead a) :: s.race.hostWrote } }
  else s.memWrite a v

/-- The host loads a byte of its own memory. During a READ_BLOCKS every load of a byte of its buffer is a
draw between the old value and the received one (R94, R345): at once where the byte has been received, in
`settleLoads` where it is still to come. DESIGN CHOICE (assumption 4), where the host also stored to the
byte during the operation (two breaches of R287, which the spec treats one by one): a load sees the
memory's byte, the byte the core replaced or the card's, and no other byte the host stored. -/
def State.hostLoad (s : State) (a : Word) : State :=
  if s.racesWith opcRead a then
    let (b, s') := s.drawAmong (s.memRead a)
      (overwritten s.race.coreWrote a ++ received s.race.coreWrote a)
    s'.setLoads
      ({ addr := a, seen := b, waiting := decide (s.race.done ≤ s.bufOffset a) } :: s.hostLoads)
  else s.setLoads ({ addr := a, seen := s.memRead a, waiting := false } :: s.hostLoads)

end Sys2Proof.Machine
end

