-- ==== Sys2Proof/Machine/HostOps.lean ====
section
/-! DEFINITION. The host operations: dispatch, pre-checks and the eight rows of format host_op (R281,
R282, R285, R286). An OP write while BUSY changes nothing at all (R281, R343). -/

namespace Sys2Proof.Machine

/-- The dispatcher accepts an operation (R281): LAST_OP, the latch, RESULT <- OK, and `seq` at the
operation's start (BUSY is computed from `seq`). -/
def State.acceptOp (s : State) (opc : BitVec 4) (start : Seq) : State :=
  { s with
    lastOp := opc
    opLatch := { opc := opc, bn := s.blockNumber, len := s.length, base := s.bufBase,
                 ws := s.workSpeed }
    result := .ok
    race := { done := 0, hostWrote := [], coreWrote := [] }
    hostLoads := endWaiting s.hostLoads
    seq := start }

/-- The dispatcher ends an operation before any bus activity (R281, R282, R286). -/
def State.rejectOp (s : State) (opc : BitVec 4) (code : ResultCode) : State :=
  { s with lastOp := opc, result := code }

/-- `PreCheck` of READ_BLOCKS and WRITE_BLOCKS, in the order of R282. -/
def State.preCheckBlocks (s : State) : Option ResultCode :=
  if s.length.toNat = 0 ∨ s.length.toNat % Config.blockSize ≠ 0 then some .invalidBufferLength
  else if s.phase ≠ .ready then some .notReady
  else if addrOverflow s.blockScale s.blockNumber then some .addressOverflow
  else none

/-- READ_BLOCKS and WRITE_BLOCKS entry: the single-block or the multi-block command (R222, R228). -/
def State.startBlocks (s : State) (opc : BitVec 4) (single multi : Cmd) : State :=
  match s.preCheckBlocks with
  | some code => s.rejectOp opc code
  | none => s.acceptOp opc (.issue (if blocksIn s.length = 1 then single else multi))

/-- A reserved opcode: LAST_OP <- opc and RESULT <- ILLEGAL_OP (R281, R286). -/
def State.illegalOp (s : State) (opc : BitVec 4) : State :=
  if s.busy then s else s.rejectOp opc .illegalOp

/-- NOP: no effect (R285). -/
def execNop (s : State) : Outcome := .next s

/-- INIT: accepted in every phase (R190, R281, R282). -/
def execInit (s : State) : Outcome :=
  .next (if s.busy then s else s.acceptOp 1#4 .initEntry)

/-- READ_BLOCKS: CMD17 for one block, CMD18 for more (R228, R281, R282). -/
def execReadBlocks (s : State) : Outcome :=
  .next (if s.busy then s else s.startBlocks opcRead .cmd17 .cmd18)

/-- WRITE_BLOCKS: CMD24 for one block, CMD25 for more (R228, R281, R282). -/
def execWriteBlocks (s : State) : Outcome :=
  .next (if s.busy then s else s.startBlocks opcWrite .cmd24 .cmd25)

/-- BLOCK_COUNT: NOT_READY with a count of 0 unless the session is READY (R260, R281, R282). -/
def execBlockCount (s : State) : Outcome :=
  .next (
    if s.busy then s
    else if s.phase ≠ .ready then { s.rejectOp 4#4 .notReady with blockCount := 0#33 }
    else s.acceptOp 4#4 (.issue .cmd9))

/-- RESERVED_5 (R286). -/
def execReserved5 (s : State) : Outcome := .next (s.illegalOp 5#4)

/-- RESERVED_6_7 (R286). -/
def execReserved67 (low : BitVec 1) (s : State) : Outcome := .next (s.illegalOp (0b011#3 ++ low))

/-- RESERVED_8_F (R286). -/
def execReserved8F (low : BitVec 3) (s : State) : Outcome := .next (s.illegalOp (1#1 ++ low))

end Sys2Proof.Machine
end

