-- ==== Sys2Proof/Machine/Recognisers.lean ====
section
/-! DEFINITION. The bytes of format recv8, each in the step that tests a received byte: the recognised
byte's effect, and what the block does with a byte that is not recognised. A byte is looked at only
where a rule looks at it; anywhere else recognising it has no effect (R100; assumption 14). -/

namespace Sys2Proof.Machine

/-- R1_RECOGNISE: the byte is the R1 status and ends the poll (R108, R165). -/
def execR1Recognise (status : BitVec 7) (s : State) : Outcome :=
  match s.seq with
  | .r1Test c => .next { s with r1 := 0#1 ++ status, seq := .got c (.resp (0#1 ++ status)) }
  | _ => .next s

/-- DATA_RESPONSE_ACCEPTED: the block was accepted; the ready wait follows (R111, R225). Bits 7:5 of the
byte are ignored. -/
def execDataResponseAccepted (_high : BitVec 3) (s : State) : Outcome :=
  match s.seq with
  | .respTest => .next (s.setSeq .wrT0)
  | _ => .next s

/-- CARD_READY: the ready wait returns true (R112, R162): the frame follows, or the next block. -/
def execCardReady (s : State) : Outcome :=
  match s.seq with
  | .cmdReady c arg => .next (s.setSeq (.cmdFrame c arg))
  | .wrReady => .next s.blockSent
  | _ => .next s

/-- The R1 poll's byte has bit 7 set: poll again, or `Timeout` after 100 exchanges (R165). -/
def State.noR1 (s : State) : State :=
  match s.seq with
  | .r1Test c =>
    s.setSeq (if s.r1Tries < Config.r1PollBudget then .r1Poll c else .got c .timeout)
  | _ => s

/-- The ready wait's byte is not 0xFF: poll again, or false once the time is up (R162). False is
`Timeout` before a command (R163), WRITE_TIMEOUT after a block (R225). -/
def State.notReady (s : State) : State :=
  match s.seq with
  | .cmdReady c arg =>
    let s' := s.readClock
    s'.setSeq (if s'.elapsed s'.params.tReadyCmdMs then .got c .timeout else .cmdPoll c arg)
  | .wrReady =>
    let s' := s.readClock
    if s'.elapsed s'.params.tReadyWriteMs then s'.ioEnd .writeTimeout else s'.setSeq .wrPoll
  | _ => s

/-- The token poll's byte is not 0xFE: poll again, or false once 1000 ms are up (R224). False is
DATA_TOKEN_TIMEOUT for a READ_BLOCKS, the soft failure 0 for a BLOCK_COUNT (R260). -/
def State.noToken (s : State) : State :=
  match s.seq with
  | .tokTest d =>
    let s' := s.readClock
    if s'.elapsed Config.tTokenMs then
      (match d with
       | .buffer => s'.ioEnd .dataTokenTimeout
       | .csd => s'.countEnd 0#33)
    else s'.setSeq (.tokPoll d)
  | _ => s

/-- The data response is not the accepted pattern: DATA_REJECTED (R225). -/
def State.rejectedBlock (s : State) : State :=
  match s.seq with
  | .respTest => s.ioEnd .dataRejected
  | _ => s

end Sys2Proof.Machine
end

