-- ==== Sys2Proof/Machine/Tokens.lean ====
section
/-! DEFINITION. The bytes of format token8: the three data tokens (R110, R224 to R227) and the fill byte
(R118). Sending one is one exchange; what follows it is the control point's. At a point that does not
send the byte the exchange alone happens (assumption 14). -/

namespace Sys2Proof.Machine

/-- A data token has been sent: the block's data follow, CRC register cleared (R225). -/
def State.tokenSent (s : State) : State :=
  match s.seq with
  | .tokenOut => { s with crc16 := 0#16, idx := 0, seq := .dataSend }
  | _ => s

/-- TOKEN_START_BLOCK 0xFE. Coming in, at the token poll's test, it ends the poll and the data bytes
follow (R224); otherwise it goes out before a single-block write's data (R225, R226). -/
def execTokenStartBlock (s : State) : Outcome :=
  match s.seq with
  | .tokTest d => .next { s with idx := 0, seq := .dataRecv d }
  | _ => .next (s.exchange1 Config.tokenStartBlock).tokenSent

/-- TOKEN_START_MULTI_WRITE 0xFC, before each block of a multi-block write (R226). -/
def execTokenStartMultiWrite (s : State) : Outcome :=
  .next (s.exchange1 Config.tokenStartMultiWrite).tokenSent

/-- TOKEN_STOP_MULTI_WRITE 0xFD, once after the last block; then END with OK, no ready wait (R227). -/
def execTokenStopMultiWrite (s : State) : Outcome :=
  let s' := s.exchange1 Config.tokenStopMultiWrite
  match s.seq with
  | .stopToken => .next (s'.ioEnd .ok)
  | _ => .next s'

/-- A payload byte of `recv_payload4` (R164): the OCR's is kept, the echo's is discarded; after the
fourth, step 4 (R193) or the OCR test (R195). -/
def State.payloadByte (s : State) (p : Payload) (k : Fin 4) : State :=
  match p with
  | .echo => if h : k.val + 1 < 4 then s.setSeq (.payload .echo ⟨k.val + 1, h⟩) else s.startAttempt
  | .ocr =>
    let s' := { s with ocr := s.ocr.set k.val s.rx }
    if h : k.val + 1 < 4 then s'.setSeq (.payload .ocr ⟨k.val + 1, h⟩) else s'.setSeq .ocrTest

/-- After data byte `idx` of a received block (R151, R224). -/
def State.nextDataByte (s : State) (d : Dest) : State :=
  { s with idx := s.idx + 1,
           seq := if s.idx + 1 < d.size then .dataRecv d else .crcRecv d false }

/-- A received data byte: into the host buffer, in the step of its exchange (R92, R151), or into `csd`
(R260). -/
def State.dataByte (s : State) (d : Dest) : Outcome :=
  match d with
  | .csd => .next (State.nextDataByte { s with csd := s.csd.setIfInBounds s.idx s.rx } .csd)
  | .buffer =>
    match s.coreStore s.bufAddr s.rx with
    | .next s' => .next (s'.nextDataByte .buffer)
    | .fault f => .fault f
    | .refused r => .refused r

/-- After the second CRC byte of a received block, both discarded unchecked (R224, R260). -/
def State.blockEnd (s : State) (d : Dest) : State :=
  match d with
  | .buffer => s.blockReceived
  | .csd => s.countEnd (csdDecode s.csd)

/-- What follows an exchange of the fill byte, by control point. -/
def State.afterFill (s : State) : Outcome :=
  match s.seq with
  | .initFill left => .next (s.setSeq (if left ≤ 1 then .issue .cmd0 else .initFill (left - 1)))
  | .cmdPad c arg => .next (s.setSeq (.cmdSelect c arg))
  | .cmdPoll c arg => .next (s.setSeq (.cmdReady c arg))
  | .r1Poll c => .next { s with r1Tries := s.r1Tries + 1, seq := .r1Test c }
  | .payload p k => .next (s.payloadByte p k)
  | .tokPoll d => .next (s.setSeq (.tokTest d))
  | .dataRecv d => s.dataByte d
  | .crcRecv d false => .next (s.setSeq (.crcRecv d true))
  | .crcRecv d true => .next (s.blockEnd d)
  | .respPoll => .next (s.setSeq .respTest)
  | .wrPoll => .next (s.setSeq .wrReady)
  | .endPad k => .next (s.afterEnd k)
  | _ => .next s

/-- FILL 0xFF: the exchange of every point where the core only receives, pads or fills (R118, R146). -/
def execFill (s : State) : Outcome := (s.exchange1 Config.fill).afterFill

end Sys2Proof.Machine
end

