-- ==== Sys2Proof/Machine/Dispatch.lean ====
section
/-! DEFINITION. One arm per row of the opcode table. -/

namespace Sys2Proof.Machine

/-- The meaning of an instruction at a state. -/
def exec (i : Instr) (s : State) : Host.Outcome State Fault Refusal :=
  match i with
  | .nop => Sys2Proof.Machine.execNop s
  | .init => Sys2Proof.Machine.execInit s
  | .readBlocks => Sys2Proof.Machine.execReadBlocks s
  | .writeBlocks => Sys2Proof.Machine.execWriteBlocks s
  | .blockCount => Sys2Proof.Machine.execBlockCount s
  | .reserved5 => Sys2Proof.Machine.execReserved5 s
  | .reserved67 low => Sys2Proof.Machine.execReserved67 low s
  | .reserved8F low => Sys2Proof.Machine.execReserved8F low s
  | .cmd0 => Sys2Proof.Machine.execCmd0 s
  | .cmd8 => Sys2Proof.Machine.execCmd8 s
  | .cmd9 => Sys2Proof.Machine.execCmd9 s
  | .cmd12 => Sys2Proof.Machine.execCmd12 s
  | .cmd16 => Sys2Proof.Machine.execCmd16 s
  | .cmd17 addr _ => Sys2Proof.Machine.execCmd17 addr s
  | .cmd18 addr _ => Sys2Proof.Machine.execCmd18 addr s
  | .cmd24 addr _ => Sys2Proof.Machine.execCmd24 addr s
  | .cmd25 addr _ => Sys2Proof.Machine.execCmd25 addr s
  | .cmd41 => Sys2Proof.Machine.execCmd41 s
  | .cmd55 => Sys2Proof.Machine.execCmd55 s
  | .cmd58 => Sys2Proof.Machine.execCmd58 s
  | .tokenStartBlock => Sys2Proof.Machine.execTokenStartBlock s
  | .tokenStartMultiWrite => Sys2Proof.Machine.execTokenStartMultiWrite s
  | .tokenStopMultiWrite => Sys2Proof.Machine.execTokenStopMultiWrite s
  | .fill => Sys2Proof.Machine.execFill s
  | .r1Recognise status => Sys2Proof.Machine.execR1Recognise status s
  | .dataResponseAccepted high => Sys2Proof.Machine.execDataResponseAccepted high s
  | .cardReady => Sys2Proof.Machine.execCardReady s

end Sys2Proof.Machine
end

