-- ==== Sys2Proof/WellFormed.lean ====
section
/-! DEFINITION. When an instruction is well-formed: the CRC-7 field of an address-carrying frame is the
CRC-7 of its first five bytes (R104, R106). Every other field takes every value. -/

namespace Sys2Proof

/-- The checks on an instruction's fields. -/
def Instr.WellFormed : Instr → Bool
  | .cmd17 addr crc => crc == Machine.frameCrc (Machine.cmdIndex .cmd17) addr
  | .cmd18 addr crc => crc == Machine.frameCrc (Machine.cmdIndex .cmd18) addr
  | .cmd24 addr crc => crc == Machine.frameCrc (Machine.cmdIndex .cmd24) addr
  | .cmd25 addr crc => crc == Machine.frameCrc (Machine.cmdIndex .cmd25) addr
  | .nop | .init | .readBlocks | .writeBlocks | .blockCount => true
  | .reserved5 | .reserved67 _ | .reserved8F _ => true
  | .cmd0 | .cmd8 | .cmd9 | .cmd12 | .cmd16 | .cmd41 | .cmd55 | .cmd58 => true
  | .tokenStartBlock | .tokenStartMultiWrite | .tokenStopMultiWrite | .fill => true
  | .r1Recognise _ | .dataResponseAccepted _ | .cardReady => true

end Sys2Proof
end

