-- ==== Sys2Proof/Decode.lean ====
section
/-! DEFINITION. The encodings of 30_encoding.md: the decoder, total on any word or bytes and rejecting by
name, then the encoder, and the numbering of a table word that the host asks with. An encoding is read
where it stands: an OP word, the six bytes of a frame, a byte going out, or a received byte at one of
the four places where the block looks at one (R100). -/

namespace Sys2Proof

/-- An encoding with the place it is read at (R100). -/
inductive Encoded where
  /-- The value written to OP (R101). -/
  | op (w : Word)
  /-- A command frame, in transmission order (R104). -/
  | frame (bytes : List Byte)
  /-- A token or fill byte going out (R110, R118). -/
  | tx (b : Byte)
  /-- A byte received by the R1 poll (R108). -/
  | rxR1 (b : Byte)
  /-- A byte received as data response (R111). -/
  | rxResponse (b : Byte)
  /-- A byte received by a ready wait (R112). -/
  | rxReady (b : Byte)
  /-- A byte received by the token poll (R110, R224). -/
  | rxToken (b : Byte)
  deriving DecidableEq, Repr

/-- Why an encoding is no instruction. -/
inductive Reject where
  /-- A frame is six bytes (R104). -/
  | frameLength
  /-- Frame bits 47 and 46 are 0 and 1 (R104). -/
  | frameStartBits
  /-- Frame bit 0 is 1 (R104). -/
  | frameEndBit
  /-- Bits 7:1 of a command whose whole frame R106 fixes are not its CRC-7 (R104). -/
  | frameCrc
  /-- The core emits twelve indices only (R105). -/
  | commandIndex
  /-- A command whose argument R106 fixes carries another. -/
  | commandArgument
  /-- A byte going out that is no token and no fill (R110, R118). -/
  | notToken
  /-- Bit 7 set: "not yet responded" (R108). -/
  | notR1
  /-- The low five bits are not 0x05 (R111). -/
  | notAccepted
  /-- Not 0xFF: busy (R112). -/
  | notReady
  /-- Not 0xFE (R224). -/
  | notStartToken
  deriving DecidableEq, Repr

/-- The OP word: bits 3:0 select, bits 31:4 are ignored (R101, R102, R103). -/
def decodeOp (w : Word) : Instr :=
  match (w.extractLsb' 0 4).toNat with
  | 0 => .nop
  | 1 => .init
  | 2 => .readBlocks
  | 3 => .writeBlocks
  | 4 => .blockCount
  | 5 => .reserved5
  | 6 => .reserved67 (w.extractLsb' 0 1)
  | 7 => .reserved67 (w.extractLsb' 0 1)
  | _ => .reserved8F (w.extractLsb' 0 3)

/-- A command whose argument R106 fixes, and with it the whole frame. -/
def decodeFixed (c : Cmd) (want arg : Word) (crc : BitVec 7) (i : Instr) : Except Reject Instr :=
  if arg ≠ want then .error .commandArgument
  else if crc ≠ Machine.frameCrc (Machine.cmdIndex c) want then .error .frameCrc
  else .ok i

/-- The command of a frame by its index (R105, R106). The table gives an address-carrying command's CRC-7
as a field; whether it is the right one `Instr.WellFormed` says (assumption 15). -/
def decodeCommand (index : BitVec 6) (arg : Word) (crc : BitVec 7) : Except Reject Instr :=
  match index.toNat with
  | 0 => decodeFixed .cmd0 0#32 arg crc .cmd0
  | 8 => decodeFixed .cmd8 Config.cmd8Arg arg crc .cmd8
  | 9 => decodeFixed .cmd9 0#32 arg crc .cmd9
  | 12 => decodeFixed .cmd12 0#32 arg crc .cmd12
  | 16 => decodeFixed .cmd16 Config.cmd16Arg arg crc .cmd16
  | 17 => .ok (.cmd17 arg crc)
  | 18 => .ok (.cmd18 arg crc)
  | 24 => .ok (.cmd24 arg crc)
  | 25 => .ok (.cmd25 arg crc)
  | 41 => decodeFixed .cmd41 Config.acmd41Arg arg crc .cmd41
  | 55 => decodeFixed .cmd55 0#32 arg crc .cmd55
  | 58 => decodeFixed .cmd58 0#32 arg crc .cmd58
  | _ => .error .commandIndex

/-- The six bytes of a frame (R104). -/
def decodeFrame (bytes : List Byte) : Except Reject Instr :=
  match bytes with
  | [b0, b1, b2, b3, b4, b5] =>
    if b0.extractLsb' 6 2 ≠ 0b01#2 then .error .frameStartBits
    else if b5.extractLsb' 0 1 ≠ 1#1 then .error .frameEndBit
    else decodeCommand (b0.extractLsb' 0 6) (b1 ++ b2 ++ b3 ++ b4) (b5.extractLsb' 1 7)
  | _ => .error .frameLength

/-- A token or fill byte going out (R110, R118). -/
def decodeTx (b : Byte) : Except Reject Instr :=
  if b = Config.tokenStartBlock then .ok .tokenStartBlock
  else if b = Config.tokenStartMultiWrite then .ok .tokenStartMultiWrite
  else if b = Config.tokenStopMultiWrite then .ok .tokenStopMultiWrite
  else if b = Config.fill then .ok .fill
  else .error .notToken

/-- R1 recognition: `b[7] = 0` (R108). -/
def decodeR1 (b : Byte) : Except Reject Instr :=
  if b.getLsbD 7 then .error .notR1 else .ok (.r1Recognise (b.extractLsb' 0 7))

/-- Data response: `d & 0x1F = 0x05` (R111). -/
def decodeResponse (d : Byte) : Except Reject Instr :=
  if d.extractLsb' 0 5 = Config.dataAccepted then .ok (.dataResponseAccepted (d.extractLsb' 5 3))
  else .error .notAccepted

/-- Ready: exactly 0xFF (R112, R162). -/
def decodeReady (b : Byte) : Except Reject Instr :=
  if b = Config.ready then .ok .cardReady else .error .notReady

/-- The data token the block awaits: exactly 0xFE (R110, R224). -/
def decodeToken (b : Byte) : Except Reject Instr :=
  if b = Config.tokenStartBlock then .ok .tokenStartBlock else .error .notStartToken

/-- The decoder, total. -/
def decode : Encoded → Except Reject Instr
  | .op w => .ok (decodeOp w)
  | .frame bytes => decodeFrame bytes
  | .tx b => decodeTx b
  | .rxR1 b => decodeR1 b
  | .rxResponse b => decodeResponse b
  | .rxReady b => decodeReady b
  | .rxToken b => decodeToken b

/-- A frame with a given CRC-7 field (R104). -/
def encodeFrame (c : Cmd) (arg : Word) (crc : BitVec 7) : Encoded :=
  .frame (Machine.frameHead (Machine.cmdIndex c) arg ++ [Machine.frameByte5 crc])

/-- A frame of a command whose argument R106 fixes, with its generated CRC-7. -/
def encodeFixed (c : Cmd) (arg : Word) : Encoded :=
  encodeFrame c arg (Machine.frameCrc (Machine.cmdIndex c) arg)

/-- The encoder, written from R102, R104, R106, R108, R110, R111, R112 and R118. The OP word's ignored
bits 31:4 are sent as 0. TOKEN_START_BLOCK is encoded as the byte that goes out; the same byte is
recognised coming in. -/
def encode : Instr → Encoded
  | .nop => .op 0x0#32
  | .init => .op 0x1#32
  | .readBlocks => .op 0x2#32
  | .writeBlocks => .op 0x3#32
  | .blockCount => .op 0x4#32
  | .reserved5 => .op 0x5#32
  | .reserved67 low => .op (0#28 ++ 0b011#3 ++ low)
  | .reserved8F low => .op (0#28 ++ 1#1 ++ low)
  | .cmd0 => encodeFixed .cmd0 0#32
  | .cmd8 => encodeFixed .cmd8 Config.cmd8Arg
  | .cmd9 => encodeFixed .cmd9 0#32
  | .cmd12 => encodeFixed .cmd12 0#32
  | .cmd16 => encodeFixed .cmd16 Config.cmd16Arg
  | .cmd17 addr crc => encodeFrame .cmd17 addr crc
  | .cmd18 addr crc => encodeFrame .cmd18 addr crc
  | .cmd24 addr crc => encodeFrame .cmd24 addr crc
  | .cmd25 addr crc => encodeFrame .cmd25 addr crc
  | .cmd41 => encodeFixed .cmd41 Config.acmd41Arg
  | .cmd55 => encodeFixed .cmd55 0#32
  | .cmd58 => encodeFixed .cmd58 0#32
  | .tokenStartBlock => .tx Config.tokenStartBlock
  | .tokenStartMultiWrite => .tx Config.tokenStartMultiWrite
  | .tokenStopMultiWrite => .tx Config.tokenStopMultiWrite
  | .fill => .tx Config.fill
  | .r1Recognise status => .rxR1 (0#1 ++ status)
  | .dataResponseAccepted high => .rxResponse (high ++ Config.dataAccepted)
  | .cardReady => .rxReady Config.ready

/-- The six bytes of a 48-bit frame number: frame bit 47 is the first bit of byte 0 (R104). -/
def frameOfNat (w : Nat) : List Byte :=
  [BitVec.ofNat 8 (w / 2 ^ 40), BitVec.ofNat 8 (w / 2 ^ 32), BitVec.ofNat 8 (w / 2 ^ 24),
    BitVec.ofNat 8 (w / 2 ^ 16), BitVec.ofNat 8 (w / 2 ^ 8), BitVec.ofNat 8 w]

/-- The place a one-byte table word is read at. The table's four formats share their byte values, and a
bare byte does not say which place it stands at: bits 7:4 zero is an OP word; then the four bytes that
go out; then a byte with bit 7 clear is an R1; the rest is a data response (assumption 12). -/
def tableByte (b : Byte) : Encoded :=
  if b.extractLsb' 4 4 = 0#4 then .op (b.setWidth 32)
  else if b.extractLsb' 2 6 = 0b111111#6 then .tx b
  else if b.getLsbD 7 = false then .rxR1 b
  else .rxResponse b

/-- The encoding a table word stands for: 48 bits is a frame, 8 bits or fewer a byte, anything else an
OP word (assumption 12). -/
def tableWord (nbits w : Nat) : Encoded :=
  if nbits = 48 then .frame (frameOfNat w)
  else if nbits ≤ 8 then tableByte (BitVec.ofNat 8 w)
  else .op (BitVec.ofNat 32 w)

/-- The instruction the decoder reads from a table word (none where it refuses). -/
def decodeTableWord (nbits w : Nat) : Option Instr :=
  match decode (tableWord nbits w) with
  | .ok i => some i
  | .error _ => none

end Sys2Proof
end

