-- ==== Sys2Proof/Machine/HostPort.lean ====
section
/-! DEFINITION. The host register port (R31, R41, R280, R283). A write to OP is an instruction and goes
through the decoder (see `fetch`); every other access is here. -/

namespace Sys2Proof.Machine

/-- `HostWrite(off, w)` but for OP: four registers are writable, BUSY or not; read-only registers,
unlisted offsets and accesses narrower than a word write nothing (R41, R280). -/
def State.hostWriteReg (s : State) (off : Word) (width : AccessWidth) (w : Word) : State :=
  match width with
  | .byte | .half => s
  | .word =>
    if off = 0x04#32 then { s with blockNumber := w }
    else if off = 0x08#32 then { s with length := w }
    else if off = 0x0C#32 then { s with bufBase := w }
    else if off = 0x10#32 then { s with workSpeed := w }
    else s

/-- The value of the register at an offset; OP, unlisted and unaligned offsets read 0 (R31 to R41). -/
def State.regValue (s : State) (off : Word) : Word :=
  if off = 0x04#32 then s.blockNumber
  else if off = 0x08#32 then s.length
  else if off = 0x0C#32 then s.bufBase
  else if off = 0x10#32 then s.workSpeed
  else if off = 0x14#32 then s.status
  else if off = 0x18#32 then s.blockCount.extractLsb' 0 32
  else if off = 0x1C#32 then (s.blockCount.extractLsb' 32 1).setWidth 32
  else if off = 0x20#32 then s.busSpeed
  else if off = 0x24#32 then BitVec.ofNat 32 Config.blockSize
  else 0#32

/-- `HostRead(off)`: no side effect on the block; the value read is `hostRd` (R283). -/
def State.hostReadReg (s : State) (off : Word) (width : AccessWidth) : State :=
  match width with
  | .byte | .half => { s with hostRd := 0#32 }
  | .word => { s with hostRd := s.regValue off }

end Sys2Proof.Machine
end

