-- ==== Sys2Proof/Machine/Fetch.lean ====
section
/-! DEFINITION. Where the next step comes from (R6, R47, R280): the schedule says whose turn it is; the
host's turn is a register or memory access, the platform's a turn of the reset input, the core's turn
is the action of its control point. An OP write, a command's call, a token, a fill byte and the test of
a received byte are encodings that `decode` reads and `exec` runs. -/

namespace Sys2Proof.Machine

/-- What a step does. -/
inductive Fetched where
  /-- Decode the encoding and run the instruction at the state. -/
  | run (e : Encoded) (s : State)
  /-- A step of the sequencer that is no table row. -/
  | micro (s : State)
  /-- The turn is done. -/
  | done (s : State)

/-- The encoding the core's control point sends or tests; none at the points that are no table row. A
command is the six bytes its framer will build (R106, R161), a token is chosen by the number of blocks
(R226), a test reads the byte the exchange before it received. -/
def State.coreEncoding (s : State) : Option Encoded :=
  match s.seq with
  | .issue c => some (.frame (buildFrame (cmdIndex c) (s.cmdArg c)).toList)
  | .initFill _ | .cmdPad _ _ | .cmdPoll _ _ | .r1Poll _ | .payload _ _ | .tokPoll _ | .dataRecv _
  | .crcRecv _ _ | .respPoll | .wrPoll | .endPad _ => some (.tx Config.fill)
  | .tokenOut =>
    some (.tx (if s.nBlocks ≤ 1 then Config.tokenStartBlock else Config.tokenStartMultiWrite))
  | .stopToken => some (.tx Config.tokenStopMultiWrite)
  | .cmdReady _ _ | .wrReady => some (.rxReady s.rx)
  | .r1Test _ => some (.rxR1 s.rx)
  | .tokTest _ => some (.rxToken s.rx)
  | .respTest => some (.rxResponse s.rx)
  | .idle | .initEntry | .initSpeed | .initDeselect | .cmdSelect _ _ | .cmdT0 _ _ | .cmdFrame _ _
  | .cmdSend _ _ | .got _ _ | .delayT0 | .delayTest | .ocrTest | .tokT0 _ | .dataSend | .crcHi
  | .crcLo | .wrT0 | .endDeselect _ | .initRaise | .initDone | .initFailed _ | .countWrite _
  | .fin _ => none

/-- The core's turn. While the reset input is asserted the core does nothing (R340). -/
def State.coreTurn (s : State) : Fetched :=
  if s.resetIn then .done s
  else
    match s.coreEncoding with
    | some e => .run e s
    | none => .micro s

/-- The host's write turn: an OP write presents its word to the dispatcher (R32, R280). A write while the
reset input is asserted is lost, since every register keeps its reset value (R340). -/
def State.hostWriteTurn (s : State) (off : Word) (width : AccessWidth) (w : Word) : Fetched :=
  if s.resetIn then .done s
  else if off = 0x00#32 ∧ width = .word then .run (.op w) s
  else .done (s.hostWriteReg off width w)

/-- One turn of the schedule. DESIGN CHOICE (assumption 16): a turn of the reset input resets the block
whatever level the input had. R340 speaks of the asserted level and of its release only; a turn that names
the released level at a released input stands for an assertion and its release in one turn, so it too
abandons the operation in progress. -/
def State.takeTurn (s : State) : Turn → Fetched
  | .core => s.coreTurn
  | .hostWrite off width w => s.hostWriteTurn off width w
  | .hostRead off width => .done (s.hostReadReg off width)
  | .memWrite a v => .done (s.hostStore a v)
  | .memRead a => .done (s.hostLoad a)
  | .resetPin asserted => .done (s.applyReset asserted)

/-- The next step: the first turn listed; with none listed, the core's (assumption 5). -/
def fetch (s : State) : Fetched :=
  match s.env.turns with
  | [] => s.coreTurn
  | t :: rest => (s.dropTurn rest).takeTurn t

/-- A received byte that the test at its place does not recognise (R162, R165, R224, R225). An encoding
the core or the host sends is never refused by the decoder, so the last case is not reached. -/
def unmatched (e : Encoded) (s : State) : Outcome :=
  match e with
  | .rxR1 _ => .next s.noR1
  | .rxReady _ => .next s.notReady
  | .rxToken _ => .next s.noToken
  | .rxResponse _ => .next s.rejectedBlock
  | .op _ | .frame _ | .tx _ => .refused .undecodable

/-- The command whose frame an instruction is, with its argument. -/
def commandOf : Instr → Option (Cmd × Word)
  | .cmd0 => some (.cmd0, 0#32)
  | .cmd8 => some (.cmd8, Config.cmd8Arg)
  | .cmd9 => some (.cmd9, 0#32)
  | .cmd12 => some (.cmd12, 0#32)
  | .cmd16 => some (.cmd16, Config.cmd16Arg)
  | .cmd17 a _ => some (.cmd17, a)
  | .cmd18 a _ => some (.cmd18, a)
  | .cmd24 a _ => some (.cmd24, a)
  | .cmd25 a _ => some (.cmd25, a)
  | .cmd41 => some (.cmd41, Config.acmd41Arg)
  | .cmd55 => some (.cmd55, 0#32)
  | .cmd58 => some (.cmd58, 0#32)
  | .nop | .init | .readBlocks | .writeBlocks | .blockCount | .reserved5 | .reserved67 _
  | .reserved8F _ | .tokenStartBlock | .tokenStartMultiWrite | .tokenStopMultiWrite | .fill
  | .r1Recognise _ | .dataResponseAccepted _ | .cardReady => none

/-- Whether a command's argument is a card address (R106). -/
def addressed : Cmd → Bool
  | .cmd17 | .cmd18 | .cmd24 | .cmd25 => true
  | .cmd0 | .cmd8 | .cmd9 | .cmd12 | .cmd16 | .cmd41 | .cmd55 | .cmd58 => false

/-- The state with the core's turn next, at a control point. -/
def State.placeCore (s : State) (q : Seq) : State :=
  { s with resetIn := false, seq := q, env := { s.env with turns := .core :: s.env.turns } }

/-- The state with an encoding where the very next step takes it (assumption 13): an OP word as the host's
next write, a frame as the call of its command (an address with `block_scale` 1 and the latch that gives
it), a token as the next byte out, a received byte in `rx` at the place that tests it. -/
def State.place (s : State) (e : Encoded) : State :=
  match e with
  | .op w =>
    { s with resetIn := false,
             env := { s.env with turns := .hostWrite 0x00#32 .word w :: s.env.turns } }
  | .frame bytes =>
    (match decodeFrame bytes with
     | .error _ => s
     | .ok i =>
       (match commandOf i with
        | none => s
        | some (c, arg) =>
          if addressed c then
            { s.placeCore (.issue c) with
              blockScale := .block, opLatch := { s.opLatch with bn := arg } }
          else s.placeCore (.issue c)))
  | .tx b =>
    if b = Config.tokenStartBlock then
      { s.placeCore .tokenOut with opLatch := { s.opLatch with len := 512#32 } }
    else if b = Config.tokenStartMultiWrite then
      { s.placeCore .tokenOut with opLatch := { s.opLatch with len := 1024#32 } }
    else if b = Config.tokenStopMultiWrite then s.placeCore .stopToken
    else s.placeCore (.initFill s.params.nPowerupBytes)
  | .rxR1 b => { s.placeCore (.r1Test .cmd0) with rx := b }
  | .rxResponse b => { s.placeCore .respTest with rx := b }
  | .rxReady b => { s.placeCore (.cmdReady .cmd0 0#32) with rx := b }
  | .rxToken b => { s.placeCore (.tokTest .buffer) with rx := b }

end Sys2Proof.Machine
end

