-- ==== Sys2Proof/Machine/Micro.lean ====
section
/-! DEFINITION. The sequencer's own steps, those that are no row of the opcode table: select, speed and
clock, the bytes of a frame, of a block and of its CRC, the callers' tests, and the end of an operation
(R47, R92). -/

namespace Sys2Proof.Machine

/-- INIT's entry (R190); the ACMD41 count restarts at 0 on every INIT (R52). -/
def State.initEntry (s : State) : State :=
  { s with phase := .initializing, blockScale := .byte, acmd41Iter := 0, seq := .initSpeed }

/-- `build_frame` into `cmd_frame`, the generator's result left in `crc7` (R160, R161). -/
def State.assembleFrame (s : State) (c : Cmd) (arg : Word) : State :=
  { s with cmdFrame := buildFrame (cmdIndex c) arg, crc7 := frameCrc (cmdIndex c) arg,
           seq := .cmdSend c 0 }

/-- One byte of the frame, the received byte discarded; after the sixth the R1 poll starts at 0 (R149,
R163, R165). -/
def State.sendFrameByte (s : State) (c : Cmd) (i : Fin 6) : State :=
  let s' := s.exchange1 s.cmdFrame[i.val]
  if h : i.val + 1 < 6 then s'.setSeq (.cmdSend c ⟨i.val + 1, h⟩)
  else { s' with r1Tries := 0, seq := .r1Poll c }

/-- `delay`'s test: a new attempt once the delay is over (R150, R194). -/
def State.delayStep (s : State) : State :=
  let s' := s.readClock
  if s'.elapsed s'.params.tAcmd41DelayMs then s'.startAttempt else s'.setSeq .delayTest

/-- One data byte of a written block: read once, into the CRC, onto the bus (R225). -/
def State.sendDataByte (s : State) : Outcome :=
  if s.admits s.bufAddr .read then
    let (b, s1) := s.coreLoad s.bufAddr
    let s2 := State.exchange1 { s1 with crc16 := crc16Step s1.crc16 b } b
    .next { s2 with idx := s2.idx + 1,
                    seq := if s2.idx + 1 < Config.blockSize then .dataSend else .crcHi }
  else .fault (.hostAccessRefused s.bufAddr .read)

/-- The core's next step at a control point that is no table row. The points of table rows (see `fetch`)
and IDLE do nothing here. -/
def micro (s : State) : Outcome :=
  match s.seq with
  | .initEntry => .next s.initEntry
  | .initSpeed => .next ((s.reconfigure s.params.fInitHz).setSeq .initDeselect)
  | .initDeselect =>
    .next (s.deselect.setSeq
      (if s.params.nPowerupBytes = 0 then .issue .cmd0 else .initFill s.params.nPowerupBytes))
  | .cmdSelect c arg => .next (s.select.setSeq (.cmdT0 c arg))
  | .cmdT0 c arg => .next (s.sampleT0.setSeq (.cmdPoll c arg))
  | .cmdFrame c arg => .next (s.assembleFrame c arg)
  | .cmdSend c i => .next (s.sendFrameByte c i)
  | .got c res => .next (s.gotResult c res)
  | .delayT0 => .next (s.sampleT0.setSeq .delayTest)
  | .delayTest => .next s.delayStep
  | .ocrTest => .next (State.step6 { s with blockScale := scaleOfOcr s.ocr })
  | .tokT0 d => .next (s.sampleT0.setSeq (.tokPoll d))
  | .dataSend => s.sendDataByte
  | .crcHi => .next ((s.exchange1 (s.crc16.extractLsb' 8 8)).setSeq .crcLo)
  | .crcLo => .next ((s.exchange1 (s.crc16.extractLsb' 0 8)).setSeq .respPoll)
  | .wrT0 => .next (s.sampleT0.setSeq .wrPoll)
  | .endDeselect k => .next (s.deselect.setSeq (.endPad k))
  | .initRaise => .next ((s.reconfigure s.opLatch.ws).setSeq .initDone)
  | .initDone => .next { s with phase := .ready, seq := .fin .ok }
  | .initFailed code => .next { s with phase := .failed, seq := .fin code }
  | .countWrite v => .next { s with blockCount := v, seq := .fin .ok }
  | .fin code => .next (s.finish code)
  | .idle | .initFill _ | .issue _ | .cmdPad _ _ | .cmdPoll _ _ | .cmdReady _ _ | .r1Poll _
  | .r1Test _ | .payload _ _ | .tokPoll _ | .tokTest _ | .dataRecv _ | .crcRecv _ _ | .tokenOut
  | .respPoll | .respTest | .wrPoll | .wrReady | .stopToken | .endPad _ => .next s

end Sys2Proof.Machine
end

