-- ==== Sys2Proof/Machine/Step.lean ====
section
/-! DEFINITION. One step of the machine: the turn, the decoder, the meaning (R47, R92, R280). -/

namespace Sys2Proof.Machine

/-- One step: take the turn; decode and run what it presents, or do the sequencer's own step. -/
def step (s : State) : Host.Outcome State Fault Refusal :=
  match fetch s with
  | .done t => .next t
  | .micro t => micro t
  | .run e t =>
    match decode e with
    | .ok i => exec i t
    | .error _ => unmatched e t

/-- `s` with a table word where the next step takes it (assumption 13). -/
def State.withFetchWord (s : State) (nbits w : Nat) : State := s.place (tableWord nbits w)

end Sys2Proof.Machine
end

