-- ==== Sys2Proof/Safety.lean ====
section
/-! DEFINITION. What claims about runs are stated in: which operation a control point belongs to, and the
invariants of the machine: of its memory, of the session, and of a block transfer. -/

namespace Sys2Proof.Machine

/-- The operation a control point belongs to. `blockIo` is the end of a READ_BLOCKS or a WRITE_BLOCKS,
`ending` the `finish` of any operation. -/
inductive OpKind where
  | none | init | read | write | blockIo | count | ending
  deriving DecidableEq, Repr

/-- The operation that issues a command (R106). -/
def opOfCmd : Cmd → OpKind
  | .cmd0 | .cmd8 | .cmd16 | .cmd41 | .cmd55 | .cmd58 => .init
  | .cmd12 | .cmd17 | .cmd18 => .read
  | .cmd24 | .cmd25 => .write
  | .cmd9 => .count

/-- The operation a received block belongs to (R224). -/
def opOfDest : Dest → OpKind
  | .buffer => .read
  | .csd => .count

/-- The operation an END belongs to. -/
def opOfEnding : Ending → OpKind
  | .initOk | .initFail _ => .init
  | .blockIo _ => .blockIo
  | .count _ => .count

/-- The operation a control point belongs to (R47). -/
def opOf : Seq → OpKind
  | .idle => .none
  | .initEntry | .initSpeed | .initDeselect | .initFill _ | .payload _ _ | .delayT0 | .delayTest
  | .ocrTest | .initRaise | .initDone | .initFailed _ => .init
  | .issue c | .cmdPad c _ | .cmdSelect c _ | .cmdT0 c _ | .cmdPoll c _ | .cmdReady c _
  | .cmdFrame c _ | .cmdSend c _ | .r1Poll c | .r1Test c | .got c _ => opOfCmd c
  | .tokT0 d | .tokPoll d | .tokTest d | .dataRecv d | .crcRecv d _ => opOfDest d
  | .tokenOut | .dataSend | .crcHi | .crcLo | .respPoll | .respTest | .wrT0 | .wrPoll | .wrReady
  | .stopToken => .write
  | .endDeselect k | .endPad k => opOfEnding k
  | .countWrite _ => .count
  | .fin _ => .ending

/-- The phase a control point allows (R42): INITIALIZING exactly while INIT runs, from its first step to
the step that writes READY or FAILED; READY throughout a block operation and a capacity query. -/
def phaseFits (q : Seq) (p : Phase) : Bool :=
  match q with
  | .initEntry => decide (p ≠ .initializing)
  | _ =>
    match opOf q with
    | .none | .ending => decide (p ≠ .initializing)
    | .init => decide (p = .initializing)
    | .read | .write | .blockIo | .count => decide (p = .ready)

/-- The level of the select output a control point allows (R45, R147, R163): deselected when no operation
runs, before a command's select and after an END's deselect; selected from a command's select on. The
call of a command may find either. -/
def selectFits (q : Seq) (csN : Bool) : Bool :=
  match q with
  | .idle | .initEntry | .initSpeed | .initDeselect | .initFill _ | .cmdPad _ _ | .cmdSelect _ _
  | .endPad _ | .initRaise | .initDone | .initFailed _ | .countWrite _ | .fin _ => csN
  | .issue _ => true
  | .cmdT0 _ _ | .cmdPoll _ _ | .cmdReady _ _ | .cmdFrame _ _ | .cmdSend _ _ | .r1Poll _ | .r1Test _
  | .got _ _ | .payload _ _ | .delayT0 | .delayTest | .ocrTest | .tokT0 _ | .tokPoll _ | .tokTest _
  | .dataRecv _ | .crcRecv _ _ | .tokenOut | .dataSend | .crcHi | .crcLo | .respPoll | .respTest
  | .wrT0 | .wrPoll | .wrReady | .stopToken | .endDeselect _ => !csN

/-- The control points of INIT at which the bus runs at F_INIT_HZ: from after step 1's `reconfigure` to
step 7's (R191, R197, R348). -/
def atInitSpeed (q : Seq) : Bool :=
  match q with
  | .initEntry | .initSpeed | .initDone | .initFailed _ => false
  | _ => decide (opOf q = .init)

/-- The opcode the latch holds while an operation runs (R46, R102). -/
def opcFits (k : OpKind) (opc : BitVec 4) : Bool :=
  match k with
  | .none | .ending => true
  | .init => decide (opc = 1#4)
  | .read => decide (opc = opcRead)
  | .write => decide (opc = opcWrite)
  | .blockIo => decide (opc = opcRead) || decide (opc = opcWrite)
  | .count => decide (opc = 4#4)

/-- The command a control point is sending or whose result it tests (R163). -/
def cmdOf : Seq → Option Cmd
  | .issue c | .cmdPad c _ | .cmdSelect c _ | .cmdT0 c _ | .cmdPoll c _ | .cmdReady c _
  | .cmdFrame c _ | .cmdSend c _ | .r1Poll c | .r1Test c | .got c _ => some c
  | .idle | .initEntry | .initSpeed | .initDeselect | .initFill _ | .payload _ _ | .delayT0
  | .delayTest | .ocrTest | .tokT0 _ | .tokPoll _ | .tokTest _ | .dataRecv _ | .crcRecv _ _
  | .tokenOut | .dataSend | .crcHi | .crcLo | .respPoll | .respTest | .wrT0 | .wrPoll | .wrReady
  | .stopToken | .endDeselect _ | .endPad _ | .initRaise | .initDone | .initFailed _
  | .countWrite _ | .fin _ => none

/-- The R1 poll's count: at most 100, and below 100 where another poll follows (R49, R165). -/
def triesFit (q : Seq) (n : Nat) : Bool :=
  match q with
  | .r1Poll _ => decide (n < Config.r1PollBudget)
  | _ => decide (n ≤ Config.r1PollBudget)

/-- The ACMD41 count: 0 before step 4, at most 1000, and below 1000 where another attempt follows (R52,
R194). -/
def attemptsFit (q : Seq) (n : Nat) : Bool :=
  match q with
  | .initSpeed | .initDeselect | .initFill _ | .payload .echo _ => decide (n = 0)
  | .delayT0 | .delayTest => decide (n < Config.acmd41Budget)
  | _ =>
    if cmdOf q = some .cmd0 ∨ cmdOf q = some .cmd8 then decide (n = 0)
    else decide (n ≤ Config.acmd41Budget)

/-- The session invariant. -/
structure State.SessionInv (s : State) : Prop where
  /-- PHASE is INITIALIZING exactly while INIT runs and READY in every other operation (R42). -/
  phase : phaseFits s.seq s.phase = true
  /-- The select output is deselected whenever no operation runs (R147, R352). -/
  select : selectFits s.seq s.csN = true
  /-- RESULT reads 0 while BUSY (R301). -/
  result : s.seq ≠ .idle → s.result = .ok
  /-- No INIT frame is sent at the working speed (R348). -/
  speed : atInitSpeed s.seq = true → s.busSpeed = s.params.fInitHz
  /-- The latch holds the opcode of the operation in progress (R46, R281). -/
  opcode : opcFits (opOf s.seq) s.opLatch.opc = true
  /-- LAST_OP is the opcode of the operation in progress (R37). -/
  lastOp : s.seq ≠ .idle → s.lastOp = s.opLatch.opc
  /-- The R1 poll keeps its budget (R165). -/
  tries : triesFit s.seq s.r1Tries = true
  /-- Step 4 keeps its budget (R194). -/
  attempts : attemptsFit s.seq s.acmd41Iter = true

/-- How many blocks the command or token of a control point is for: one for CMD17 and CMD24, two or more
for CMD18, CMD25, CMD12 and the stop token (R222, R227). -/
def blocksFit (q : Seq) (n : Nat) : Bool :=
  match q with
  | .stopToken => decide (2 ≤ n)
  | _ =>
    match cmdOf q with
    | some .cmd17 | some .cmd24 => decide (n = 1)
    | some .cmd18 | some .cmd25 | some .cmd12 => decide (2 ≤ n)
    | _ => true

/-- The block and byte counters where a block is being received or sent (R54, R222). -/
def countersFit (q : Seq) (blk idx n : Nat) : Bool :=
  match q with
  | .dataRecv .buffer | .dataSend => decide (blk < n) && decide (idx < Config.blockSize)
  | .dataRecv .csd => decide (idx < Config.csdSize)
  | .tokT0 .buffer | .tokPoll .buffer | .tokTest .buffer | .crcRecv .buffer _ | .tokenOut | .crcHi
  | .crcLo | .respPoll | .respTest | .wrT0 | .wrPoll | .wrReady => decide (blk < n)
  | _ => true

/-- How many buffer bytes have been accessed at a control point (R92): none before the first block, every
byte of the blocks before `blk` and `idx` bytes of it inside one, all of them at the end. -/
def progressFits (q : Seq) (blk idx len done : Nat) : Bool :=
  match q with
  | .tokT0 .buffer | .tokPoll .buffer | .tokTest .buffer | .tokenOut =>
    decide (done = Config.blockSize * blk)
  | .dataRecv .buffer | .dataSend => decide (done = Config.blockSize * blk + idx)
  | .crcRecv .buffer _ | .crcHi | .crcLo | .respPoll | .respTest | .wrT0 | .wrPoll | .wrReady =>
    decide (done = Config.blockSize * (blk + 1))
  | .stopToken => decide (done = len)
  | _ =>
    match cmdOf q with
    | some .cmd12 => decide (done = len)
    | some .cmd17 | some .cmd18 | some .cmd24 | some .cmd25 => decide (done = 0)
    | _ => true

/-- Whether a READ_BLOCKS or WRITE_BLOCKS is at a control point before its END. -/
def inTransfer (q : Seq) : Bool :=
  decide (opOf q = .read) || decide (opOf q = .write)

/-- The transfer invariant. -/
structure State.TransferInv (s : State) : Prop where
  /-- The latched length is a positive multiple of 512 (R222, R282). -/
  length : inTransfer s.seq = true →
    0 < s.opLatch.len.toNat ∧ s.opLatch.len.toNat % Config.blockSize = 0
  /-- The card address fits 32 bits (R220, R282). -/
  address : inTransfer s.seq = true → addrOverflow s.blockScale s.opLatch.bn = false
  /-- The command fits the number of blocks (R222). -/
  blocks : blocksFit s.seq s.nBlocks = true
  /-- The counters stay inside the transfer (R54). -/
  counters : countersFit s.seq s.blk.toNat s.idx s.nBlocks = true
  /-- Buffer bytes are accessed in order, each exactly once (R92). -/
  progress : progressFits s.seq s.blk.toNat s.idx s.opLatch.len.toNat s.race.done = true

/-- What receiving the byte `v` for the address `a` makes of a host load: one that waits for it keeps its old
value or takes `v`, and waits no more; any other stays (R94, R345; assumption 4). -/
def HostLoad.SettlesTo (a : Word) (v : Byte) (l l' : HostLoad) : Prop :=
  if l.waiting = true ∧ l.addr = a then
    l' = { l with waiting := false } ∨ l' = { l with seen := v, waiting := false }
  else l' = l

/-- The core's turn comes next: no other turn is listed and the reset input is released. -/
def State.coreNext (s : State) : Prop := s.env.turns = [] ∧ s.resetIn = false

/-- The bytes sent by a stretch of the wire trace, oldest first (R141; the trace is newest first). -/
def sentBytes : List BusEvent → List Byte
  | [] => []
  | .xchg t _ :: older => sentBytes older ++ [t]
  | .cs _ :: older => sentBytes older
  | .spd _ :: older => sentBytes older

/-- The host addresses of a block of the operation in progress, byte 0 first (R81, R222). -/
def State.blockAddrs (s : State) : List Word :=
  (List.range Config.blockSize).map
    (fun j => s.opLatch.base + 512#32 * s.blk + BitVec.ofNat 32 j)

end Sys2Proof.Machine
end

