-- ==== Sys2Proof/Certificates/Slice0/Obligations.lean ====
section
/-! DEFINITION. The statements for the provers. A statement about a core's step takes `coreNext`: no other
turn is listed and the reset input is released; `StepTakesTheTurn` says what a listed turn does. -/

open Sys2Proof Sys2Proof.Machine

/-! ## Host operations -/

/-- R285: an OP word whose bits 3:0 are 0 is NOP, and NOP changes nothing. -/
def Obligations.NopHasNoEffect : Prop :=
  ∀ s : State, exec .nop s = .next s ∧
    ∀ w : Word, w.extractLsb' 0 4 = 0#4 → decodeOp w = .nop

/-- R281, R190: INIT is accepted in every phase; the operands are latched, RESULT is OK and the next core
step is INIT's first. The race record, cleared, and the host's loads, none of which waits any longer, are
the model's own fields (log 4). -/
def Obligations.InitIsAccepted : Prop :=
  ∀ s : State, s.seq = .idle →
    exec .init s = .next { s with
      lastOp := 1#4, result := .ok, seq := .initEntry
      opLatch := { opc := 1#4, bn := s.blockNumber, len := s.length, base := s.bufBase,
                   ws := s.workSpeed }
      race := { done := 0, hostWrote := [], coreWrote := [] }
      hostLoads := s.hostLoads.map (fun l => { l with waiting := false }) }

/-- R281, R228: a READ_BLOCKS or WRITE_BLOCKS that passes the pre-checks is latched and starts with its
single-block command for one block, its multi-block command for more. The race record, cleared, and the
host's loads, none of which waits any longer, are the model's own fields (log 4). -/
def Obligations.BlockOperationsAreAccepted : Prop :=
  ∀ s : State, s.seq = .idle → s.phase = .ready → 0 < s.length.toNat → s.length.toNat % 512 = 0 →
    s.blockNumber.toNat * s.blockScale.value ≤ 0xFFFFFFFF →
    exec .readBlocks s = .next { s with
      lastOp := 2#4, result := .ok
      seq := .issue (if s.length = 512#32 then .cmd17 else .cmd18)
      opLatch := { opc := 2#4, bn := s.blockNumber, len := s.length, base := s.bufBase,
                   ws := s.workSpeed }
      race := { done := 0, hostWrote := [], coreWrote := [] }
      hostLoads := s.hostLoads.map (fun l => { l with waiting := false }) } ∧
    exec .writeBlocks s = .next { s with
      lastOp := 3#4, result := .ok
      seq := .issue (if s.length = 512#32 then .cmd24 else .cmd25)
      opLatch := { opc := 3#4, bn := s.blockNumber, len := s.length, base := s.bufBase,
                   ws := s.workSpeed }
      race := { done := 0, hostWrote := [], coreWrote := [] }
      hostLoads := s.hostLoads.map (fun l => { l with waiting := false }) }

/-- R281, R260: a BLOCK_COUNT in phase READY is latched and starts with CMD9. The race record, cleared, and
the host's loads, none of which waits any longer, are the model's own fields (log 4). -/
def Obligations.BlockCountIsAccepted : Prop :=
  ∀ s : State, s.seq = .idle → s.phase = .ready →
    exec .blockCount s = .next { s with
      lastOp := 4#4, result := .ok, seq := .issue .cmd9
      opLatch := { opc := 4#4, bn := s.blockNumber, len := s.length, base := s.bufBase,
                   ws := s.workSpeed }
      race := { done := 0, hostWrote := [], coreWrote := [] }
      hostLoads := s.hostLoads.map (fun l => { l with waiting := false }) }

/-- R286, R313: while not BUSY, an OP word whose bits 3:0 are 5 to 15 writes them to LAST_OP and ILLEGAL_OP
to RESULT, and nothing else; so does each of the three rows. -/
def Obligations.ReservedOpcodesEndIllegalOp : Prop :=
  ∀ s : State, s.seq = .idle →
    (∀ w : Word, 5 ≤ (w.extractLsb' 0 4).toNat →
      exec (decodeOp w) s = .next { s with lastOp := w.extractLsb' 0 4, result := .illegalOp }) ∧
    exec .reserved5 s = .next { s with lastOp := 5#4, result := .illegalOp } ∧
    (∀ low, exec (.reserved67 low) s =
      .next { s with lastOp := 0b011#3 ++ low, result := .illegalOp }) ∧
    (∀ low, exec (.reserved8F low) s =
      .next { s with lastOp := 0b1#1 ++ low, result := .illegalOp })

/-- R343: an OP write while BUSY changes nothing at all, whatever its opcode. -/
def Obligations.OpWriteWhileBusyIsIgnored : Prop :=
  ∀ (s : State) (w : Word), s.seq ≠ .idle → exec (decodeOp w) s = .next s

/-- R310, R312, R314, R282: the pre-checks. A length of 0 or not a multiple of 512 is rejected first, in
every phase; then a phase other than READY; then an address beyond 32 bits. Nothing changes but LAST_OP and
RESULT, and for a BLOCK_COUNT outside READY the count, which becomes 0. The order of the checks is that of
R282. -/
def Obligations.PreChecksReject : Prop :=
  ∀ s : State, s.seq = .idle →
    ((s.length = 0#32 ∨ s.length.toNat % 512 ≠ 0) →
      exec .readBlocks s = .next { s with lastOp := 2#4, result := .invalidBufferLength } ∧
      exec .writeBlocks s = .next { s with lastOp := 3#4, result := .invalidBufferLength }) ∧
    (s.phase ≠ .ready → s.length ≠ 0#32 → s.length.toNat % 512 = 0 →
      exec .readBlocks s = .next { s with lastOp := 2#4, result := .notReady } ∧
      exec .writeBlocks s = .next { s with lastOp := 3#4, result := .notReady }) ∧
    (s.phase ≠ .ready →
      exec .blockCount s = .next { s with lastOp := 4#4, result := .notReady, blockCount := 0#33 }) ∧
    (s.phase = .ready → s.length ≠ 0#32 → s.length.toNat % 512 = 0 →
      s.blockNumber.toNat * s.blockScale.value > 0xFFFFFFFF →
      exec .readBlocks s = .next { s with lastOp := 2#4, result := .addressOverflow } ∧
      exec .writeBlocks s = .next { s with lastOp := 3#4, result := .addressOverflow })

/-! ## Commands -/

/-- R163, R192 to R196: the commands of INIT begin with `deselect()`, nothing else changed, and go on to
`pad()` with the argument R106 gives. By the spec a command has this effect only where an operation calls
for it; that `exec` gives it at every other control point too is the model's choice (log 14). -/
def Obligations.InitCommandsStart : Prop :=
  ∀ s : State,
    exec .cmd0 s = .next { s with
      csN := true, trace := .cs true :: s.trace, seq := .cmdPad .cmd0 0x00000000#32 } ∧
    exec .cmd8 s = .next { s with
      csN := true, trace := .cs true :: s.trace, seq := .cmdPad .cmd8 0x000001AA#32 } ∧
    exec .cmd55 s = .next { s with
      csN := true, trace := .cs true :: s.trace, seq := .cmdPad .cmd55 0x00000000#32 } ∧
    exec .cmd41 s = .next { s with
      csN := true, trace := .cs true :: s.trace, seq := .cmdPad .cmd41 0x40000000#32 } ∧
    exec .cmd58 s = .next { s with
      csN := true, trace := .cs true :: s.trace, seq := .cmdPad .cmd58 0x00000000#32 } ∧
    exec .cmd16 s = .next { s with
      csN := true, trace := .cs true :: s.trace, seq := .cmdPad .cmd16 0x00000200#32 }

/-- R163, R106, R220, R229 to R232, R260: the commands of READ_BLOCKS, WRITE_BLOCKS and BLOCK_COUNT begin
with `deselect()`, nothing else changed, and go on to `pad()`; the address commands carry their address,
whatever the CRC field they were read with. In a step of the core that address is `op_latch.bn *
block_scale`, the latched block number times 1 for a block-addressed card and times 512 for a byte-addressed
one. The CRC-7 field of an address frame is not used: the framer computes it again (R161). By the spec a
command has this effect only where an operation calls for it; that `exec` gives it at every other control
point too is the model's choice (log 14). -/
def Obligations.TransferCommandsStart : Prop :=
  ∀ (s : State) (addr : Word) (crc : BitVec 7),
    exec (.cmd17 addr crc) s = .next { s with
      csN := true, trace := .cs true :: s.trace, seq := .cmdPad .cmd17 addr } ∧
    exec (.cmd18 addr crc) s = .next { s with
      csN := true, trace := .cs true :: s.trace, seq := .cmdPad .cmd18 addr } ∧
    exec (.cmd24 addr crc) s = .next { s with
      csN := true, trace := .cs true :: s.trace, seq := .cmdPad .cmd24 addr } ∧
    exec (.cmd25 addr crc) s = .next { s with
      csN := true, trace := .cs true :: s.trace, seq := .cmdPad .cmd25 addr } ∧
    exec .cmd12 s = .next { s with
      csN := true, trace := .cs true :: s.trace, seq := .cmdPad .cmd12 0x00000000#32 } ∧
    exec .cmd9 s = .next { s with
      csN := true, trace := .cs true :: s.trace, seq := .cmdPad .cmd9 0x00000000#32 } ∧
    (∀ c : Cmd, s.coreNext → s.seq = .issue c → (c = .cmd17 ∨ c = .cmd18 ∨ c = .cmd24 ∨ c = .cmd25) →
      step s = .next { s with
        csN := true, trace := .cs true :: s.trace
        seq := .cmdPad c (BitVec.ofNat 32 (s.opLatch.bn.toNat *
          (match s.blockScale with | .block => 1 | .byte => 512))) })

/-- R163, R165, R104, R106, R220: `send_command` on a card that is ready at once and answers at the first
poll makes exactly the events deselect, pad, select, one ready poll, the six frame bytes and one R1 poll, in
that order, and returns `Resp(b)` with the select line low. It consumes exactly nine card bytes. The frame
is the command's index and its argument, most significant byte first, with their CRC-7 and the end bit; the
argument of CMD17, CMD18, CMD24 and CMD25 is `op_latch.bn * block_scale`. That the command takes 15 steps
rests on log 1 (DEDUCED): the ready test, the assembly of the frame and the R1 test are silent steps of
their own. The listed card bytes are the model's form of the card oracle (log 2). -/
def Obligations.SendCommandOnReadyCard : Prop :=
  ∀ (s : State) (c : Cmd) (p x0 x1 x2 x3 x4 x5 b : Byte) (rest : List Byte),
    s.coreNext → s.seq = .issue c → b.getLsbD 7 = false →
    s.env.card = [p, 0xFF#8, x0, x1, x2, x3, x4, x5, b] ++ rest →
    let index : BitVec 6 := match c with
      | .cmd0 => 0#6 | .cmd8 => 8#6 | .cmd9 => 9#6 | .cmd12 => 12#6 | .cmd16 => 16#6
      | .cmd17 => 17#6 | .cmd18 => 18#6 | .cmd24 => 24#6 | .cmd25 => 25#6 | .cmd41 => 41#6
      | .cmd55 => 55#6 | .cmd58 => 58#6
    let arg : Word := match c with
      | .cmd0 | .cmd9 | .cmd12 | .cmd55 | .cmd58 => 0x00000000#32
      | .cmd8 => 0x000001AA#32
      | .cmd16 => 0x00000200#32
      | .cmd41 => 0x40000000#32
      | .cmd17 | .cmd18 | .cmd24 | .cmd25 => BitVec.ofNat 32 (s.opLatch.bn.toNat *
          (match s.blockScale with | .block => 1 | .byte => 512))
    let head : List Byte := [0b01#2 ++ index, arg.extractLsb' 24 8, arg.extractLsb' 16 8,
      arg.extractLsb' 8 8, arg.extractLsb' 0 8]
    ∃ t : State, Host.Core.run Sys2Proof.core 15 s = .next t ∧
      t.seq = .got c (.resp b) ∧ t.csN = false ∧ t.r1 = b ∧ t.env.card = rest ∧
      t.cmdFrame.toList = head ++ [crc7Of head ++ 1#1] ∧ t.mem = s.mem ∧
      t.trace = [.xchg 0xFF#8 b, .xchg t.cmdFrame[5] x5, .xchg t.cmdFrame[4] x4,
        .xchg t.cmdFrame[3] x3, .xchg t.cmdFrame[2] x2, .xchg t.cmdFrame[1] x1,
        .xchg t.cmdFrame[0] x0, .xchg 0xFF#8 0xFF#8, .cs false, .xchg 0xFF#8 p, .cs true] ++ s.trace

/-- R162, R163, R225: the ready wait, before a frame and after a written block. It samples the clock, then
polls; a poll is one exchange of 0xFF and its tests. 0xFF ends the wait: the frame follows before a command;
after a written block, END with OK for a single block, else the next block's token or, after the last, the
stop token. Any other byte reads the clock once and ends the wait with `false` iff `(now - t0) mod 2^32 >=
T`, else polls again. Where a test or a group of assignments stands as a step of its own is the model's
reading (log 1, DEDUCED). -/
def Obligations.ReadyWaitTests : Prop :=
  ∀ (s : State) (c : Cmd) (arg : Word), s.coreNext →
    (s.seq = .cmdT0 c arg → step s = .next { s.readClock with
      t0 := s.readClock.nowMs, seq := .cmdPoll c arg }) ∧
    (s.seq = .cmdPoll c arg → step s = .next { s.exchange1 0xFF#8 with seq := .cmdReady c arg }) ∧
    (s.seq = .cmdReady c arg → s.rx = 0xFF#8 → step s = .next { s with seq := .cmdFrame c arg }) ∧
    (s.seq = .cmdReady c arg → s.rx ≠ 0xFF#8 → step s = .next { s.readClock with
      seq := if s.params.tReadyCmdMs.toNat ≤ (s.readClock.nowMs - s.t0).toNat
        then .got c .timeout else .cmdPoll c arg }) ∧
    (s.seq = .wrT0 → step s = .next { s.readClock with t0 := s.readClock.nowMs, seq := .wrPoll }) ∧
    (s.seq = .wrPoll → step s = .next { s.exchange1 0xFF#8 with seq := .wrReady }) ∧
    (s.seq = .wrReady → s.rx = 0xFF#8 → step s = .next (
      if s.opLatch.len.toNat / 512 ≤ 1 then { s with seq := .endDeselect (.blockIo .ok) }
      else if s.blk.toNat + 1 < s.opLatch.len.toNat / 512 then
        { s with blk := s.blk + 1#32, seq := .tokenOut }
      else { s with seq := .stopToken })) ∧
    (s.seq = .wrReady → s.rx ≠ 0xFF#8 → step s = .next { s.readClock with
      seq := if s.params.tReadyWriteMs.toNat ≤ (s.readClock.nowMs - s.t0).toNat
        then .endDeselect (.blockIo .writeTimeout) else .wrPoll })

/-- R108, R165: a polled byte with bit 7 set polls again while fewer than 100 exchanges were made and is
`Timeout` after 100; a byte with bit 7 clear is the R1 status at once. That the tests are a step apart from
the exchange they follow is the model's reading (log 1, DEDUCED). -/
def Obligations.R1CollectorTests : Prop :=
  ∀ (s : State) (c : Cmd), s.coreNext → s.seq = .r1Test c →
    (s.rx.getLsbD 7 = true → step s = .next { s with
      seq := if s.r1Tries < 100 then .r1Poll c else .got c .timeout }) ∧
    (s.rx.getLsbD 7 = false → step s = .next { s with r1 := s.rx, seq := .got c (.resp s.rx) })

/-- R165: `Timeout` comes after exactly 100 exchanges of 0xFF whose answers all have bit 7 set. That the 100
exchanges take 200 steps rests on log 1 (DEDUCED): each is followed by a silent step that tests its byte.
The listed card bytes are the model's form of the card oracle (log 2). -/
def Obligations.R1PollTimesOutAfter100 : Prop :=
  ∀ (s : State) (c : Cmd) (answers rest : List Byte),
    s.coreNext → s.seq = .r1Poll c → s.r1Tries = 0 → answers.length = 100 →
    (∀ b ∈ answers, b.getLsbD 7 = true) → s.env.card = answers ++ rest →
    ∃ t : State, Host.Core.run Sys2Proof.core 200 s = .next t ∧
      t.seq = .got c .timeout ∧ t.env.card = rest ∧
      t.trace = (answers.map (fun b => BusEvent.xchg 0xFF#8 b)).reverse ++ s.trace

/-! ## Transport and clock -/

/-- R142, R144, R145, R148: the primitives. An exchange records the byte sent and the byte received, the
card's next where the tape lists one (the model's form of the card oracle, assumption 2), and of the free
inputs moves the card's only; it and the others change nothing else. -/
def Obligations.TransportPrimitives : Prop :=
  ∀ (s : State) (t : Byte) (f : Word),
    s.exchange1 t = { s with
      rx := (s.exchange1 t).rx, env := (s.exchange1 t).env
      trace := .xchg t (s.exchange1 t).rx :: s.trace } ∧
    (∀ b rest, s.env.card = b :: rest →
      (s.exchange1 t).rx = b ∧ (s.exchange1 t).env =
        { s.env with card := rest, cardDrawn := s.env.cardDrawn + 1 }) ∧
    (s.env.card = [] → (s.exchange1 t).env = { s.env with cardDrawn := s.env.cardDrawn + 1 }) ∧
    s.select = { s with csN := false, trace := .cs false :: s.trace } ∧
    s.deselect = { s with csN := true, trace := .cs true :: s.trace } ∧
    s.reconfigure f = { s with busSpeed := f, trace := .spd f :: s.trace }

/-- R60, R351, D41: the underlying count never decreases in a step, and a turn of the host or of the reset
input leaves it as it was: only the core's turn can move it. Time is weakly fair: from every state and for
every bound `B` there is a number of clock reads after which every run from there has a count at least `B`
larger, so the clock does not stand still, or crawl below a bound, for ever. The count, its free growths and
the turns are the model's form of the clock input and of the schedule (logs 3 and 5). -/
def Obligations.ClockNeverDecreases : Prop :=
  (∀ s t : State, step s = .next t →
    s.env.clock ≤ t.env.clock ∧
    (∀ turn rest, s.env.turns = turn :: rest → turn ≠ .core → t.env.clock = s.env.clock)) ∧
  (∀ (s : State) (B : Nat), ∃ reads : Nat, ∀ (k : Nat) (t : State),
    Host.Core.run Sys2Proof.core k s = .next t → s.env.clockReads + reads ≤ t.env.clockReads →
    s.env.clock + B ≤ t.env.clock)

/-! ## Tokens, fill and recognisers -/

/-- R225, R226, R227: at the token of a written block the data token goes out, the CRC register and the byte
counter are cleared and the data follow; the stop token is one exchange of 0xFD, and END with OK follows,
with no ready wait. -/
def Obligations.TokensGoOut : Prop :=
  ∀ s : State,
    (s.seq = .tokenOut →
      exec .tokenStartBlock s = .next { s.exchange1 0xFE#8 with
        crc16 := 0#16, idx := 0, seq := .dataSend } ∧
      exec .tokenStartMultiWrite s = .next { s.exchange1 0xFC#8 with
        crc16 := 0#16, idx := 0, seq := .dataSend }) ∧
    (s.seq = .stopToken →
      exec .tokenStopMultiWrite s =
        .next { s.exchange1 0xFD#8 with seq := .endDeselect (.blockIo .ok) })

/-- R226: one token precedes each block that is sent, 0xFE for the block of a single-block write and 0xFC
for every block of a multi-block write; the data bytes follow it. -/
def Obligations.TokenIsChosenByBlockCount : Prop :=
  ∀ s : State, s.coreNext → s.seq = .tokenOut → 0 < s.opLatch.len.toNat / 512 →
    step s = .next {
      s.exchange1 (if s.opLatch.len.toNat / 512 = 1 then 0xFE#8 else 0xFC#8) with
      crc16 := 0#16, idx := 0, seq := .dataSend }

/-- R224: the token poll. It samples the clock, then polls; a poll is one exchange of 0xFF and its tests.
0xFE ends the poll and data byte 0 follows; any other byte reads the clock once and ends the poll iff 1000
ms are up, with DATA_TOKEN_TIMEOUT for a read and the count 0 for a capacity query. Where a test or a group
of assignments stands as a step of its own is the model's reading (log 1, DEDUCED). -/
def Obligations.TokenPollTests : Prop :=
  ∀ (s : State) (d : Dest), s.coreNext →
    (s.seq = .tokT0 d → step s = .next { s.readClock with
      t0 := s.readClock.nowMs, seq := .tokPoll d }) ∧
    (s.seq = .tokPoll d → step s = .next { s.exchange1 0xFF#8 with seq := .tokTest d }) ∧
    (s.seq = .tokTest d →
      exec .tokenStartBlock s = .next { s with idx := 0, seq := .dataRecv d } ∧
      (s.rx = 0xFE#8 → step s = .next { s with idx := 0, seq := .dataRecv d }) ∧
      (s.rx ≠ 0xFE#8 → step s = .next { s.readClock with
        seq := if 1000 ≤ (s.readClock.nowMs - s.t0).toNat
          then (match d with
            | .buffer => .endDeselect (.blockIo .dataTokenTimeout)
            | .csd => .endDeselect (.count 0#33))
          else .tokPoll d }))

/-- R118, R151: FILL completes at every control point, with one exchange of 0xFF, unless the received byte
is for a host address that HOST_MEM_ADMIT refuses, where the core is stuck. By the spec FILL is sent only at
the points that receive, pad or fill; that `exec` completes it elsewhere, with the exchange alone, is the
model's choice (log 14). That the refused access stops the core's step as a fault is the model's form of the
stuck core (log 8). The listed card bytes are the model's form of the card oracle (log 2). -/
def Obligations.FillCompletes : Prop :=
  ∀ s : State,
    ((s.seq = .dataRecv .buffer → s.admits s.bufAddr .write = true) →
      ∃ t : State, exec .fill s = .next t ∧ t.trace = .xchg 0xFF#8 t.rx :: s.trace ∧
        (∀ b rest, s.env.card = b :: rest → t.rx = b ∧ t.env.card = rest)) ∧
    (s.seq = .dataRecv .buffer → s.admits s.bufAddr .write = false →
      exec .fill s = .fault (.hostAccessRefused s.bufAddr .write))

/-- R92, R118, R94: what an exchange of the fill byte leaves unchanged: every host-visible register,
STATUS.BUSY (`seq` IDLE or not) with it, the session, the latch, the select and speed outputs, the frame,
both CRC registers, R1, the clock sample, what the host's loads saw, but those that wait for the data byte
just received, each of which keeps its value or takes that byte (log 4), and every byte of memory but the
one buffer byte stored at a data byte of a READ_BLOCKS. The frame holds at every control point, those that
send no fill byte included (log 14). -/
def Obligations.FillFrame : Prop :=
  ∀ s t : State, exec .fill s = .next t →
    (t.seq = .idle ↔ s.seq = .idle) ∧
    t.blockNumber = s.blockNumber ∧ t.length = s.length ∧ t.bufBase = s.bufBase ∧
    t.workSpeed = s.workSpeed ∧ t.result = s.result ∧ t.lastOp = s.lastOp ∧
    t.blockCount = s.blockCount ∧ t.phase = s.phase ∧ t.blockScale = s.blockScale ∧
    t.busSpeed = s.busSpeed ∧ t.csN = s.csN ∧ t.opLatch = s.opLatch ∧ t.cmdFrame = s.cmdFrame ∧
    t.r1 = s.r1 ∧ t.crc7 = s.crc7 ∧ t.crc16 = s.crc16 ∧ t.t0 = s.t0 ∧ t.resetIn = s.resetIn ∧
    t.hostRd = s.hostRd ∧ t.params = s.params ∧
    (s.seq ≠ .dataRecv .buffer → t.hostLoads = s.hostLoads) ∧
    (s.seq = .dataRecv .buffer →
      List.Forall₂ (HostLoad.SettlesTo s.bufAddr t.rx) s.hostLoads t.hostLoads) ∧
    t.env.turns = s.env.turns ∧ t.env.clock = s.env.clock ∧
    (∀ a : Word, s.seq = .dataRecv .buffer → a ≠ s.bufAddr → t.memRead a = s.memRead a) ∧
    (∀ a : Word, s.seq ≠ .dataRecv .buffer → t.memRead a = s.memRead a)

/-- R151, R81: a data byte of a READ_BLOCKS is stored at `base + 512*blk + idx` in the step of its
exchange, where the host has not stored to that byte during the operation. -/
def Obligations.ReceivedByteIsStored : Prop :=
  ∀ s : State, s.seq = .dataRecv .buffer → s.mem.wf = true → s.admits s.bufAddr .write = true →
    racing s.race.hostWrote s.bufAddr = [] →
    ∃ t : State, exec .fill s = .next t ∧
      t.memRead (s.opLatch.base + 512#32 * s.blk + BitVec.ofNat 32 s.idx) = t.rx ∧
      t.idx = s.idx + 1 ∧ t.blk = s.blk ∧
      t.seq = (if s.idx + 1 < 512 then .dataRecv .buffer else .crcRecv .buffer false)

/-- R164, R193, R195, R224, R260: a payload byte of CMD58 goes to `ocr[k]`, and the OCR test follows the
fourth; a payload byte of CMD8 is discarded, and the first ACMD41 attempt follows the fourth; a CSD byte
goes to `csd[idx]`, and the two CRC bytes follow the sixteenth. The listed card bytes are the model's form
of the card oracle (log 2). -/
def Obligations.PayloadAndCsdBytes : Prop :=
  ∀ (s : State) (k : Fin 4) (b : Byte) (rest : List Byte), s.env.card = b :: rest →
    (s.seq = .payload .ocr k → ∃ t : State, exec .fill s = .next t ∧ t.ocr = s.ocr.set k.val b ∧
      t.csd = s.csd ∧ t.mem = s.mem ∧
      (∀ h : k.val + 1 < 4, t.seq = .payload .ocr ⟨k.val + 1, h⟩) ∧
      (k.val = 3 → t.seq = .ocrTest)) ∧
    (s.seq = .payload .echo k → ∃ t : State, exec .fill s = .next t ∧ t.ocr = s.ocr ∧
      t.csd = s.csd ∧ t.mem = s.mem ∧
      (∀ h : k.val + 1 < 4,
        t.seq = .payload .echo ⟨k.val + 1, h⟩ ∧ t.acmd41Iter = s.acmd41Iter) ∧
      (k.val = 3 → t.seq = .issue .cmd55 ∧ t.acmd41Iter = s.acmd41Iter + 1)) ∧
    (s.seq = .dataRecv .csd → s.idx < 16 → ∃ t : State, exec .fill s = .next t ∧
      t.csd = s.csd.setIfInBounds s.idx b ∧ t.ocr = s.ocr ∧ t.mem = s.mem ∧ t.idx = s.idx + 1 ∧
      t.seq = (if s.idx + 1 < 16 then .dataRecv .csd else .crcRecv .csd false))

/-- R108: recognising an R1 ends the poll with that status and changes nothing else. -/
def Obligations.R1RecogniseEndsThePoll : Prop :=
  ∀ (s : State) (c : Cmd) (status : BitVec 7), s.seq = .r1Test c →
    exec (.r1Recognise status) s =
      .next { s with r1 := 0#1 ++ status, seq := .got c (.resp (0#1 ++ status)) }

/-- R111, R225: the one byte received after a written block. `d & 0x1F = 0x05` is accepted, whatever its
bits 7:5, and the ready wait follows; any other byte ends DATA_REJECTED with no ready wait. That the test is
a step apart from the exchange before it is the model's reading (log 1, DEDUCED). -/
def Obligations.DataResponseTests : Prop :=
  ∀ (s : State) (high : BitVec 3),
    (s.coreNext → s.seq = .respPoll →
      step s = .next { s.exchange1 0xFF#8 with seq := .respTest }) ∧
    (s.coreNext → s.seq = .respTest → step s = .next { s with
      seq := if s.rx &&& 0x1F#8 = 0x05#8 then .wrT0
        else .endDeselect (.blockIo .dataRejected) }) ∧
    (s.seq = .respTest → exec (.dataResponseAccepted high) s = .next { s with seq := .wrT0 })

/-- R112, R162: 0xFF ends the ready wait: the frame follows before a command; after a written block, END
for a single block, else the next block's token or, after the last, the stop token. -/
def Obligations.CardReadyEndsTheWait : Prop :=
  ∀ (s : State) (c : Cmd) (arg : Word),
    (s.seq = .cmdReady c arg → exec .cardReady s = .next { s with seq := .cmdFrame c arg }) ∧
    (s.seq = .wrReady → exec .cardReady s = .next (
      if s.opLatch.len.toNat / 512 ≤ 1 then { s with seq := .endDeselect (.blockIo .ok) }
      else if s.blk.toNat + 1 < s.opLatch.len.toNat / 512 then
        { s with blk := s.blk + 1#32, seq := .tokenOut }
      else { s with seq := .stopToken }))

/-! ## Initialization -/

/-- R190, R191: INIT's entry and step 1. Where a test or a group of assignments stands as a step of its own
is the model's reading (log 1, DEDUCED). -/
def Obligations.InitBringsUpTheBus : Prop :=
  ∀ s : State, s.coreNext →
    (s.seq = .initEntry → step s = .next { s with
      phase := .initializing, blockScale := .byte, acmd41Iter := 0, seq := .initSpeed }) ∧
    (s.seq = .initSpeed → step s = .next { s with
      busSpeed := s.params.fInitHz, trace := .spd s.params.fInitHz :: s.trace,
      seq := .initDeselect }) ∧
    (s.seq = .initDeselect → 10 ≤ s.params.nPowerupBytes → step s = .next { s with
      csN := true, trace := .cs true :: s.trace, seq := .initFill s.params.nPowerupBytes }) ∧
    (∀ left, s.seq = .initFill left → step s = .next { s.exchange1 0xFF#8 with
      seq := if left ≤ 1 then .issue .cmd0 else .initFill (left - 1) })

/-- R192, R193: steps 2 and 3. CMD0 passes on R1 = 0x01 or 0x00, and anything else is NO_CARD. CMD8's four
payload bytes are read iff it answered with bit 2 clear; otherwise the first ACMD41 attempt follows. Where a
test or a group of assignments stands as a step of its own is the model's reading (log 1, DEDUCED). -/
def Obligations.ResetAndInterfaceVerdicts : Prop :=
  ∀ (s : State) (res : CmdResult), s.coreNext →
    (s.seq = .got .cmd0 res → step s = .next { s with
      seq := if res = .resp 0x01#8 ∨ res = .resp 0x00#8 then .issue .cmd8
        else .endDeselect (.initFail .noCard) }) ∧
    (∀ r : Byte, r.getLsbD 2 = false → s.seq = .got .cmd8 (.resp r) →
      step s = .next { s with seq := .payload .echo 0 }) ∧
    (s.seq = .got .cmd8 res → (∀ r : Byte, res = .resp r → r.getLsbD 2 = true) →
      step s = .next { s with acmd41Iter := s.acmd41Iter + 1, seq := .issue .cmd55 })

/-- R194: the ACMD41 loop. CMD55's result is ignored; only R1 = 0x00 ends the loop; the 1000th failed
attempt is INIT_TIMEOUT, every other is followed by a delay and the next attempt. Where a test or a group of
assignments stands as a step of its own is the model's reading (log 1, DEDUCED). -/
def Obligations.Acmd41Loop : Prop :=
  ∀ (s : State) (res : CmdResult), s.coreNext →
    (s.seq = .got .cmd55 res → step s = .next { s with seq := .issue .cmd41 }) ∧
    (s.seq = .got .cmd41 res → step s = .next { s with
      seq := if res = .resp 0x00#8 then .issue .cmd58
        else if s.acmd41Iter < 1000 then .delayT0
        else .endDeselect (.initFail .initTimeout) }) ∧
    (s.seq = .delayT0 → step s = .next { s.readClock with
      t0 := s.readClock.nowMs, seq := .delayTest }) ∧
    (s.seq = .delayTest → step s = .next (
      if s.params.tAcmd41DelayMs.toNat ≤ (s.readClock.nowMs - s.t0).toNat then
        { s.readClock with acmd41Iter := s.acmd41Iter + 1, seq := .issue .cmd55 }
      else s.readClock))

/-- R195, R196: steps 5 and 6. The OCR is read iff CMD58 answered 0x00; its byte 0 bit 6 selects
`block_scale`; any other outcome falls back to 512. CMD16 follows for 512, the end of INIT for 1. Any
non-zero status of CMD16 and a timeout are SET_BLOCKLEN_FAILED. Where a test or a group of assignments
stands as a step of its own is the model's reading (log 1, DEDUCED). -/
def Obligations.OcrAndBlockLength : Prop :=
  ∀ (s : State) (res : CmdResult), s.coreNext →
    (s.seq = .got .cmd58 res → step s = .next (
      if res = .resp 0x00#8 then { s with seq := .payload .ocr 0 }
      else { s with blockScale := .byte, seq := .issue .cmd16 })) ∧
    (s.seq = .ocrTest → step s = .next (
      if s.ocr[0].getLsbD 6 = true then
        { s with blockScale := .block, seq := .endDeselect .initOk }
      else { s with blockScale := .byte, seq := .issue .cmd16 })) ∧
    (s.seq = .got .cmd16 res → step s = .next { s with
      seq := if res = .resp 0x00#8 then .endDeselect .initOk
        else .endDeselect (.initFail .setBlocklenFailed) })

/-- R197, R198: INIT ends with END. Then success installs the latched WORK_SPEED and writes READY, and
failure writes FAILED with the speed and `block_scale` unchanged; then `finish`. Where a test or a group of
assignments stands as a step of its own is the model's reading (log 1, DEDUCED). -/
def Obligations.InitEnds : Prop :=
  ∀ (s : State) (k : Ending) (code : ResultCode), s.coreNext →
    (s.seq = .endDeselect k → step s = .next { s with
      csN := true, trace := .cs true :: s.trace, seq := .endPad k }) ∧
    (s.seq = .endPad .initOk → step s = .next { s.exchange1 0xFF#8 with seq := .initRaise }) ∧
    (s.seq = .initRaise → step s = .next { s with
      busSpeed := s.opLatch.ws, trace := .spd s.opLatch.ws :: s.trace, seq := .initDone }) ∧
    (s.seq = .initDone → step s = .next { s with phase := .ready, seq := .fin .ok }) ∧
    (s.seq = .endPad (.initFail code) →
      step s = .next { s.exchange1 0xFF#8 with seq := .initFailed code }) ∧
    (s.seq = .initFailed code → step s = .next { s with phase := .failed, seq := .fin code }) ∧
    (s.seq = .fin code → step s = .next { s with result := code, seq := .idle })

/-! ## Block operations, capacity query, termination -/

/-- R305, R306, R311: the read and write commands. A timeout is COMMAND_TIMEOUT, a non-zero R1 is READ_ERROR
or WRITE_ERROR, and 0x00 goes on to the first block. That the caller's test of a result is a silent step of
its own is the model's reading (log 1, DEDUCED). -/
def Obligations.BlockCommandVerdicts : Prop :=
  ∀ (s : State) (c : Cmd), s.coreNext →
    (s.seq = .got c .timeout → (c = .cmd17 ∨ c = .cmd18 ∨ c = .cmd24 ∨ c = .cmd25) →
      step s = .next { s with seq := .endDeselect (.blockIo .commandTimeout) }) ∧
    (∀ r : Byte, r ≠ 0x00#8 → s.seq = .got c (.resp r) → (c = .cmd17 ∨ c = .cmd18) →
      step s = .next { s with seq := .endDeselect (.blockIo .readError) }) ∧
    (∀ r : Byte, r ≠ 0x00#8 → s.seq = .got c (.resp r) → (c = .cmd24 ∨ c = .cmd25) →
      step s = .next { s with seq := .endDeselect (.blockIo .writeError) }) ∧
    (s.seq = .got c (.resp 0x00#8) → (c = .cmd17 ∨ c = .cmd18) →
      step s = .next { s with blk := 0#32, seq := .tokT0 .buffer }) ∧
    (s.seq = .got c (.resp 0x00#8) → (c = .cmd24 ∨ c = .cmd25) →
      step s = .next { s with blk := 0#32, seq := .tokenOut })

/-- R224, R229, R230: a received block ends with two CRC bytes. After the second, END with OK for a single
block, else the next block, or CMD12 after the last; CMD12's result is ignored and END with OK follows. That
CMD12's result is dropped in a silent step of its own is the model's reading (log 1, DEDUCED). -/
def Obligations.ReceivedBlockIsFollowed : Prop :=
  ∀ (s : State) (d : Dest) (res : CmdResult), s.coreNext →
    (s.seq = .crcRecv d false →
      step s = .next { s.exchange1 0xFF#8 with seq := .crcRecv d true }) ∧
    (s.seq = .crcRecv .buffer true → step s = .next (
      if s.opLatch.len.toNat / 512 ≤ 1 then
        { s.exchange1 0xFF#8 with seq := .endDeselect (.blockIo .ok) }
      else if s.blk.toNat + 1 < s.opLatch.len.toNat / 512 then
        { s.exchange1 0xFF#8 with blk := s.blk + 1#32, seq := .tokT0 .buffer }
      else { s.exchange1 0xFF#8 with seq := .issue .cmd12 })) ∧
    (s.seq = .got .cmd12 res → step s = .next { s with seq := .endDeselect (.blockIo .ok) })

/-- R260: CMD9's failure gives the count 0; a received CSD gives its decoded count (the count 0 of a token
timeout stands in TokenPollTests); after END the count registers are written, then `finish(OK)`. That CMD9's
result is tested in a silent step of its own, and that the count registers are written one step before
`finish`, is the model's reading (logs 1 and 18, DEDUCED). -/
def Obligations.CapacityQueryEnds : Prop :=
  ∀ (s : State) (res : CmdResult) (v : BitVec 33), s.coreNext →
    (s.seq = .got .cmd9 res → step s = .next { s with
      seq := if res = .resp 0x00#8 then .tokT0 .csd else .endDeselect (.count 0#33) }) ∧
    (s.seq = .crcRecv .csd true → step s = .next { s.exchange1 0xFF#8 with
      seq := .endDeselect (.count (csdDecode s.csd)) }) ∧
    (s.seq = .endPad (.count v) → step s = .next { s.exchange1 0xFF#8 with seq := .countWrite v }) ∧
    (s.seq = .countWrite v → step s = .next { s with blockCount := v, seq := .fin .ok })

/-- R147, R317: END is a deselect and one padding exchange; `finish` writes RESULT and goes IDLE, which is
BUSY = 0, and touches nothing else. Where a test or a group of assignments stands as a step of its own is
the model's reading (log 1, DEDUCED). -/
def Obligations.EndAndFinish : Prop :=
  ∀ (s : State) (k : Ending) (code : ResultCode), s.coreNext →
    (s.seq = .endDeselect k → step s = .next { s with
      csN := true, trace := .cs true :: s.trace, seq := .endPad k }) ∧
    (s.seq = .endPad (.blockIo code) → step s = .next { s.exchange1 0xFF#8 with seq := .fin code }) ∧
    (s.seq = .fin code → step s = .next { s with result := code, seq := .idle })

/-- R92, R151, R224: the data bytes of one block of a READ_BLOCKS. From data byte 0, with 512 card bytes,
every buffer byte of the block admitted and no host store racing, 512 steps store byte `j` at `base +
512*blk + j` for every `j`, leave every other byte alone, and go on to the CRC bytes. The listed card bytes
are the model's form of the card oracle (log 2). -/
def Obligations.ReceivedBlockIsStored : Prop :=
  ∀ (s : State) (data rest : List Byte),
    s.coreNext → s.seq = .dataRecv .buffer → s.idx = 0 → s.mem.wf = true →
    s.race.hostWrote = [] → data.length = 512 → s.env.card = data ++ rest →
    (∀ a ∈ s.blockAddrs, s.admits a .write = true) →
    ∃ t : State, Host.Core.run Sys2Proof.core 512 s = .next t ∧
      t.seq = .crcRecv .buffer false ∧ t.env.card = rest ∧
      s.blockAddrs.map t.memRead = data ∧
      (∀ a : Word, a ∉ s.blockAddrs → t.memRead a = s.memRead a)

/-- R82, R223, R225: the data bytes of one block of a WRITE_BLOCKS. From data byte 0 with the CRC register
cleared, every buffer byte admitted and no host store racing, 512 steps send exactly the buffer's bytes
in order and leave their CRC-16 in the generator; memory is untouched. -/
def Obligations.SentBlockIsTheBuffer : Prop :=
  ∀ s : State,
    s.coreNext → s.seq = .dataSend → s.idx = 0 → s.crc16 = 0#16 → s.race.hostWrote = [] →
    (∀ a ∈ s.blockAddrs, s.admits a .read = true) →
    ∃ (t : State) (events : List BusEvent), Host.Core.run Sys2Proof.core 512 s = .next t ∧
      t.seq = .crcHi ∧ t.trace = events ++ s.trace ∧ events.length = 512 ∧
      sentBytes events = s.blockAddrs.map s.memRead ∧
      t.crc16 = crc16Of (s.blockAddrs.map s.memRead) ∧ t.mem = s.mem

/-- R85: the CRC-16 of a written block goes out high byte first; the data-response exchange comes next. -/
def Obligations.CrcGoesOutHighByteFirst : Prop :=
  ∀ s : State, s.coreNext →
    (s.seq = .crcHi →
      step s = .next { s.exchange1 (s.crc16.extractLsb' 8 8) with seq := .crcLo }) ∧
    (s.seq = .crcLo →
      step s = .next { s.exchange1 (s.crc16.extractLsb' 0 8) with seq := .respPoll })

/-- R81, R94, R345: accesses to a buffer byte by host and core. An address races with a READ_BLOCKS (opcode
2) or a WRITE_BLOCKS (opcode 3) while BUSY, where `(a - base) mod 2^32 < len` of the latched operands. The
core's load sends the memory's byte or one the host replaced before it. The core's store leaves the card's
byte or the one the host stored last before it, records what it replaced and the card's byte, and settles
every host load that waits for the byte: each keeps its value or takes the card's. The host's store to a
byte a READ_BLOCKS has received leaves the host's byte or the card's; any other store leaves the host's
byte, and during the operation, before the core's access, is recorded with the byte it replaced. Each of the
host's loads is recorded with what it saw: of a byte of a running READ_BLOCKS the memory's byte, one the
core replaced or the card's, and where the byte is still to be received the load waits for it; of any other
byte the memory's. The records, the moment an early load is settled, what several stores or a store and a
load of one byte see, and the free draws are the model's form of the spec's draws (log 4). -/
def Obligations.RacesDrawOnlyRacingValues : Prop :=
  ∀ (s : State) (a : Word) (v : Byte),
    let off : Nat := (a - s.opLatch.base).toNat
    let reading : Prop := s.seq ≠ .idle ∧ s.opLatch.opc = 2#4 ∧ off < s.opLatch.len.toNat
    let writing : Prop := s.seq ≠ .idle ∧ s.opLatch.opc = 3#4 ∧ off < s.opLatch.len.toNat
    ((s.coreLoad a).1 = s.memRead a ∨ (a, (s.coreLoad a).1) ∈ s.race.hostWrote) ∧
    (∀ t, s.mem.wf = true → s.coreStore a v = .next t →
      (t.memRead a = v ∨ ((∃ old, (a, old) ∈ s.race.hostWrote) ∧ t.memRead a = s.memRead a)) ∧
      t.race.done = s.race.done + 1 ∧
      t.race.coreWrote = { addr := a, old := s.memRead a, card := v } :: s.race.coreWrote ∧
      List.Forall₂ (HostLoad.SettlesTo a v) s.hostLoads t.hostLoads) ∧
    (s.mem.wf = true → reading → off < s.race.done →
      (s.hostStore a v).memRead a = v ∨
        ∃ w ∈ s.race.coreWrote, w.addr = a ∧ (s.hostStore a v).memRead a = w.card) ∧
    (s.mem.wf = true → ¬(reading ∧ off < s.race.done) → (s.hostStore a v).memRead a = v) ∧
    (reading ∨ writing → s.race.done ≤ off →
      (s.hostStore a v).race.hostWrote = (a, s.memRead a) :: s.race.hostWrote) ∧
    (reading → ∃ b,
      (b = s.memRead a ∨ ∃ w ∈ s.race.coreWrote, w.addr = a ∧ (b = w.old ∨ b = w.card)) ∧
      (s.hostLoad a).hostLoads =
        { addr := a, seen := b, waiting := decide (s.race.done ≤ off) } :: s.hostLoads) ∧
    (¬reading →
      (s.hostLoad a).hostLoads =
        { addr := a, seen := s.memRead a, waiting := false } :: s.hostLoads)

/-! ## Computations -/

/-- R220, R221: where the product fits 32 bits the card address is exact; it overflows exactly with
`block_scale` 512 and a block number of 0x800000 or more. -/
def Obligations.AddressTranslation : Prop :=
  ∀ (scale : BlockScale) (bn : Word),
    (addrOverflow scale bn = false →
      (cardAddr scale bn).toNat = bn.toNat * (match scale with | .block => 1 | .byte => 512)) ∧
    (addrOverflow scale bn = true ↔ scale = .byte ∧ 0x800000 ≤ bn.toNat)

/-- R261 to R264: the CSD decode, exact in 33 bits: version 2.0 by `(size + 1) * 1024`, version 1.0 by
`(size + 1) << (mult + 2)`, and 0 for the other two layouts. -/
def Obligations.CsdDecodeIsExact : Prop :=
  ∀ csd : Vector Byte 16,
    ((csd[0]).toNat / 64 = 1 → (csdDecode csd).toNat =
      ((csd[7].toNat % 64 * 65536 + csd[8].toNat * 256 + csd[9].toNat) + 1) * 1024) ∧
    ((csd[0]).toNat / 64 = 0 → (csdDecode csd).toNat =
      ((csd[6].toNat % 4 * 1024 + csd[7].toNat * 4 + csd[8].toNat / 64) + 1) *
        2 ^ ((csd[9].toNat % 4 * 2 + csd[10].toNat / 128) + 2)) ∧
    (2 ≤ (csd[0]).toNat / 64 → csdDecode csd = 0#33)

/-- R106, R160, R223, B1, B2: the eight complete frames of the fixed-argument commands, and the check values
of both generators. -/
def Obligations.FramesAndCheckValues : Prop :=
  (buildFrame (cmdIndex .cmd0) 0x00000000#32).toList =
    [0x40#8, 0x00#8, 0x00#8, 0x00#8, 0x00#8, 0x95#8] ∧
  (buildFrame (cmdIndex .cmd8) 0x000001AA#32).toList =
    [0x48#8, 0x00#8, 0x00#8, 0x01#8, 0xAA#8, 0x87#8] ∧
  (buildFrame (cmdIndex .cmd9) 0x00000000#32).toList =
    [0x49#8, 0x00#8, 0x00#8, 0x00#8, 0x00#8, 0xAF#8] ∧
  (buildFrame (cmdIndex .cmd12) 0x00000000#32).toList =
    [0x4C#8, 0x00#8, 0x00#8, 0x00#8, 0x00#8, 0x61#8] ∧
  (buildFrame (cmdIndex .cmd16) 0x00000200#32).toList =
    [0x50#8, 0x00#8, 0x00#8, 0x02#8, 0x00#8, 0x15#8] ∧
  (buildFrame (cmdIndex .cmd41) 0x40000000#32).toList =
    [0x69#8, 0x40#8, 0x00#8, 0x00#8, 0x00#8, 0x77#8] ∧
  (buildFrame (cmdIndex .cmd55) 0x00000000#32).toList =
    [0x77#8, 0x00#8, 0x00#8, 0x00#8, 0x00#8, 0x65#8] ∧
  (buildFrame (cmdIndex .cmd58) 0x00000000#32).toList =
    [0x7A#8, 0x00#8, 0x00#8, 0x00#8, 0x00#8, 0xFD#8] ∧
  crc7Of [0x31#8, 0x32#8, 0x33#8, 0x34#8, 0x35#8, 0x36#8, 0x37#8, 0x38#8, 0x39#8] = 0x75#7 ∧
  crc7Of [0x40#8, 0x00#8, 0x00#8, 0x00#8, 0x00#8] = 0x4A#7 ∧
  crc7Of [0x48#8, 0x00#8, 0x00#8, 0x01#8, 0xAA#8] = 0x43#7 ∧
  crc16Of [0x31#8, 0x32#8, 0x33#8, 0x34#8, 0x35#8, 0x36#8, 0x37#8, 0x38#8, 0x39#8] = 0x31C3#16

/-! ## Encoding -/

/-- R101, R104, R108, R110: a few words written out from the spec decode to what they stand for. That a
frame is decoded at all, with the CRC-7 field of CMD17 as a field, is the model's choice: the spec's block
parses no frames (log 15). -/
def Obligations.WordsDecode : Prop :=
  decode (.op 0x00000002#32) = .ok .readBlocks ∧
  decode (.op 0x00000015#32) = .ok .reserved5 ∧
  decode (.frame [0x51#8, 0x00#8, 0x00#8, 0x0A#8, 0x00#8, 0xC9#8]) =
    .ok (.cmd17 0x00000A00#32 0x64#7) ∧
  decode (.frame [0x69#8, 0x40#8, 0x00#8, 0x00#8, 0x00#8, 0x77#8]) = .ok .cmd41 ∧
  decode (.tx 0xFC#8) = .ok .tokenStartMultiWrite ∧
  decode (.rxR1 0x05#8) = .ok (.r1Recognise 0x05#7) ∧
  decode (.rxResponse 0xE5#8) = .ok (.dataResponseAccepted 0b111#3) ∧
  decode (.rxReady 0x7F#8) = .error .notReady

/-- Decoding an encoded instruction gives it back, for every instruction and every field value, the
well-formed ones among them (R100 to R112). The spec's block parses no frames of its own: the frame decoder
is the model's (log 15). -/
def Obligations.DecodeInvertsEncode : Prop :=
  ∀ i : Instr, decode (encode i) = .ok i

/-- R104, R105, R106: bytes that decode as a frame are six, and the encoding of that one instruction, so no
two frames mean the same and no other index or fixed argument is accepted; the instruction is well-formed
exactly if the sixth byte carries the CRC-7 of the first five. The spec's block parses no frames of its own:
the frame decoder is the model's (log 15). -/
def Obligations.FrameHasOneMeaning : Prop :=
  ∀ (bytes : List Byte) (i : Instr), decode (.frame bytes) = .ok i →
    encode i = .frame bytes ∧
    ∃ b0 b1 b2 b3 b4 b5 : Byte, bytes = [b0, b1, b2, b3, b4, b5] ∧
      (i.WellFormed = true ↔ b5.extractLsb' 1 7 = crc7Of [b0, b1, b2, b3, b4])

/-- R101, R103: the OP word's bits 31:4 are ignored, and its bits 3:0 alone select the operation. -/
def Obligations.OpWordIgnoresHighBits : Prop :=
  ∀ w v : Word, w.extractLsb' 0 4 = v.extractLsb' 0 4 ↔ decodeOp w = decodeOp v

/-! ## The step -/

/-- A step runs the decoded instruction: where the step presents an encoding that decodes to `i`, it is
`exec i` at the state with the turn taken; an OP write presents its word (R32, R280, R281), a command's call
its frame. That the command's call (R163) goes through a frame that is decoded is the model's choice: the
spec's block builds frames and parses none (log 15). What stands around exec is taking the turn from the
schedule (log 5). -/
def Obligations.StepRunsTheDecodedInstruction : Prop :=
  (∀ (s t : State) (e : Encoded) (i : Instr), fetch s = .run e t → decode e = .ok i →
    step s = exec i t) ∧
  (∀ (s : State) (rest : List Turn) (w : Word), s.resetIn = false →
    s.env.turns = .hostWrite 0x00#32 .word w :: rest →
    step s = exec (decodeOp w) (s.dropTurn rest)) ∧
  (∀ (s : State) (c : Cmd) (i : Instr), s.coreNext → s.seq = .issue c →
    decode (.frame (buildFrame (cmdIndex c) (s.cmdArg c)).toList) = .ok i → step s = exec i s)

/-- R280, R283, R340: a listed turn is taken from the schedule and done; the core's listed turn is the step
the core takes with nothing listed, with the turns after it listed still. The schedule is the model's form
of the agents' interleaving (log 5). -/
def Obligations.StepTakesTheTurn : Prop :=
  ∀ (s : State) (rest : List Turn),
    (∀ off width w, s.env.turns = .hostWrite off width w :: rest → s.resetIn = false →
      (off ≠ 0x00#32 ∨ width ≠ .word) →
      step s = .next ((s.dropTurn rest).hostWriteReg off width w)) ∧
    (∀ off width, s.env.turns = .hostRead off width :: rest →
      step s = .next ((s.dropTurn rest).hostReadReg off width)) ∧
    (∀ a v, s.env.turns = .memWrite a v :: rest →
      step s = .next ((s.dropTurn rest).hostStore a v)) ∧
    (∀ a, s.env.turns = .memRead a :: rest →
      step s = .next ((s.dropTurn rest).hostLoad a)) ∧
    (s.env.turns = .core :: rest →
      (∀ t, step (s.dropTurn []) = .next t → step s = .next (t.dropTurn rest)) ∧
      (∀ f, step (s.dropTurn []) = .fault f → step s = .fault f))

/-- R31, R33 to R42, R300: what the host reads. STATUS gives LAST_OP, the result code and the phase by their
numbers, HC and BUSY. OP, unlisted, unaligned and narrow reads give 0; a read changes nothing of the block.
The value read is the model's own latch (log 22). -/
def Obligations.RegisterReads : Prop :=
  ∀ s : State,
    s.regValue 0x00#32 = 0#32 ∧ s.regValue 0x04#32 = s.blockNumber ∧ s.regValue 0x08#32 = s.length ∧
    s.regValue 0x0C#32 = s.bufBase ∧ s.regValue 0x10#32 = s.workSpeed ∧
    (s.regValue 0x14#32).toNat = s.lastOp.toNat * 256 +
      (match s.result with
        | .ok => 0 | .noCard => 1 | .initTimeout => 2 | .setBlocklenFailed => 3 | .readError => 4
        | .writeError => 5 | .dataTokenTimeout => 6 | .dataRejected => 7 | .writeTimeout => 8
        | .invalidBufferLength => 9 | .commandTimeout => 10 | .notReady => 11 | .illegalOp => 12
        | .addressOverflow => 13) * 16 +
      (match s.blockScale with | .block => 8 | .byte => 0) +
      (match s.phase with | .uninit => 0 | .initializing => 1 | .ready => 2 | .failed => 3) * 2 +
      (if s.seq = .idle then 0 else 1) ∧
    (s.regValue 0x18#32).toNat = s.blockCount.toNat % 2 ^ 32 ∧
    (s.regValue 0x1C#32).toNat = s.blockCount.toNat / 2 ^ 32 ∧
    s.regValue 0x20#32 = s.busSpeed ∧ s.regValue 0x24#32 = 512#32 ∧
    (∀ off : Word, (off.toNat % 4 ≠ 0 ∨ 0x24 < off.toNat) → s.regValue off = 0#32) ∧
    (∀ off, s.hostReadReg off .word = { s with hostRd := s.regValue off }) ∧
    (∀ off, s.hostReadReg off .half = { s with hostRd := 0#32 } ∧
      s.hostReadReg off .byte = { s with hostRd := 0#32 })

/-- R280, R41: what the host writes. Four registers are writable, whether BUSY or not; a write to any other
offset but OP's, or narrower than a word, writes nothing. -/
def Obligations.RegisterWrites : Prop :=
  ∀ (s : State) (w : Word),
    s.hostWriteReg 0x04#32 .word w = { s with blockNumber := w } ∧
    s.hostWriteReg 0x08#32 .word w = { s with length := w } ∧
    s.hostWriteReg 0x0C#32 .word w = { s with bufBase := w } ∧
    s.hostWriteReg 0x10#32 .word w = { s with workSpeed := w } ∧
    (∀ off, off ≠ 0x04#32 → off ≠ 0x08#32 → off ≠ 0x0C#32 → off ≠ 0x10#32 →
      s.hostWriteReg off .word w = s) ∧
    (∀ off, s.hostWriteReg off .half w = s ∧ s.hostWriteReg off .byte w = s)

/-- R327, R341: while no operation is in progress the core's step makes no bus event and changes nothing. -/
def Obligations.IdleCoreWaits : Prop :=
  ∀ s : State, s.coreNext → s.seq = .idle → step s = .next s

/-- R340: the values the spec gives for reset, the transient registers apart. -/
def Obligations.ResetValues : Prop :=
  State.reset.seq = .idle ∧ State.reset.blockNumber = 0#32 ∧ State.reset.length = 0#32 ∧
  State.reset.bufBase = 0#32 ∧ State.reset.workSpeed = 0#32 ∧ State.reset.status = 0#32 ∧
  State.reset.blockCount = 0#33 ∧ State.reset.busSpeed = 100000#32 ∧ State.reset.phase = .uninit ∧
  State.reset.blockScale = .byte ∧ State.reset.csN = true ∧ State.reset.trace = [] ∧
  State.reset.opLatch = { opc := 0#4, bn := 0#32, len := 0#32, base := 0#32, ws := 0#32 }

/-- R340: a turn of the reset input puts the block at its reset values, whatever it was doing, with no bus
event; the host memory keeps its bytes. While the input is asserted every turn but its release leaves the
block there. The turn itself, that a turn naming the level the input already has resets the block too (at a
released input it stands for an assertion and its release in one turn), and the lost host writes are the
model's (log 16); that the transient registers hold zero is too (log 10). -/
def Obligations.ResetHoldsTheBlock : Prop :=
  ∀ (s t : State) (level : Bool) (rest : List Turn),
    (s.env.turns = .resetPin level :: rest → step s = .next t →
      t.seq = .idle ∧ t.status = 0#32 ∧ t.blockNumber = 0#32 ∧ t.length = 0#32 ∧ t.bufBase = 0#32 ∧
      t.workSpeed = 0#32 ∧ t.blockCount = 0#33 ∧ t.busSpeed = s.params.fInitHz ∧
      t.phase = .uninit ∧ t.blockScale = .byte ∧ t.csN = true ∧ t.opLatch = State.reset.opLatch ∧
      t.trace = s.trace ∧ t.mem = s.mem ∧ t.resetIn = level) ∧
    (s.resetIn = true → s.applyReset true = s → (∀ r, s.env.turns ≠ .resetPin false :: r) →
      step s = .next t → t.applyReset true = t ∧ t.trace = s.trace)

/-! ## Whole-machine rules and invariants -/

/-- D1, R92, R141: every step of the machine, in every state and whoever's turn it is, adds at most one
event to the wire trace and removes none. Where a test or a group of assignments stands as a step of its own
is the model's reading (log 1, DEDUCED). -/
def Obligations.StepAddsAtMostOneEvent : Prop :=
  ∀ s t : State, step s = .next t → t.trace = s.trace ∨ ∃ e, t.trace = e :: s.trace

/-- R42, R43, R44, R38, R7: who writes the session. In a step that is not a turn of the reset input,
`phase`, `block_scale` and `bus_speed` change only at INIT's control points; the count registers change only
at BLOCK_COUNT's `countWrite` or by an OP write that ends BLOCK_COUNT; the parameters never change. -/
def Obligations.OnlyOwnersWriteTheSession : Prop :=
  ∀ s t : State, step s = .next t → (∀ level rest, s.env.turns ≠ .resetPin level :: rest) →
    t.params = s.params ∧
    (opOf s.seq ≠ .init → t.phase = s.phase ∧ t.blockScale = s.blockScale ∧ t.busSpeed = s.busSpeed) ∧
    ((∀ v, s.seq ≠ .countWrite v) → t.blockCount ≠ s.blockCount →
      s.seq = .idle ∧ t.lastOp = 4#4 ∧ t.result = .notReady ∧ t.blockCount = 0#33)

/-- R92, R81: who writes the host memory. A step changes no byte of it but the buffer byte at
`base + 512*blk + idx` when the core is at a data byte of a READ_BLOCKS, or the byte the host's own store
names. -/
def Obligations.OnlyNamedBytesOfMemoryChange : Prop :=
  ∀ (s t : State) (a : Word), step s = .next t →
    (s.seq = .dataRecv .buffer → a ≠ s.bufAddr) →
    (∀ b v rest, s.env.turns = .memWrite b v :: rest → a ≠ b) →
    t.memRead a = s.memRead a

/-- R351 (c), R151, D7: no step is refused, and a step stops only at a buffer byte that HOST_MEM_ADMIT
refuses, a data byte of a READ_BLOCKS for writing or of a WRITE_BLOCKS for reading; where it refuses that
byte, the core's step stops. The fault is the model's form of the stuck core (log 8). -/
def Obligations.StepStopsOnlyAtRefusedAccess : Prop :=
  ∀ s : State,
    (∀ r, step s ≠ .refused r) ∧
    (∀ f, step s = .fault f →
      (s.seq = .dataRecv .buffer ∧ s.admits s.bufAddr .write = false ∧
        f = .hostAccessRefused s.bufAddr .write) ∨
      (s.seq = .dataSend ∧ s.admits s.bufAddr .read = false ∧
        f = .hostAccessRefused s.bufAddr .read)) ∧
    (s.coreNext → s.seq = .dataRecv .buffer → s.admits s.bufAddr .write = false →
      step s = .fault (.hostAccessRefused s.bufAddr .write)) ∧
    (s.coreNext → s.seq = .dataSend → s.admits s.bufAddr .read = false →
      step s = .fault (.hostAccessRefused s.bufAddr .read))

/-- Every step keeps the canonical form of the host memory (R81). The canonical form is the model's (log 9).
-/
def Obligations.StepKeepsMemoryCanonical : Prop :=
  ∀ s t : State, s.mem.wf = true → step s = .next t → t.mem.wf = true

/-- Every step keeps the session invariant: the phase fits the operation in progress, the select line is
released whenever none runs, RESULT is 0 while BUSY, INIT's frames run at F_INIT_HZ, and both budgets
hold (R42, R147, R301, R348, R165, R194). -/
def Obligations.StepKeepsTheSession : Prop :=
  ∀ s t : State, s.SessionInv → step s = .next t → t.SessionInv

/-- Every step keeps the transfer invariant: the latched operands stay legal, the counters stay inside the
transfer, and buffer bytes are accessed in order, each exactly once (R92, R222, R282). -/
def Obligations.StepKeepsTheTransfer : Prop :=
  ∀ s t : State, s.TransferInv → step s = .next t → t.TransferInv

/-- The state after reset meets the three invariants. -/
def Obligations.ResetMeetsTheInvariants : Prop :=
  State.reset.mem.wf = true ∧ State.reset.SessionInv ∧ State.reset.TransferInv
end

