-- ==== Sys2Proof/Laws/State.lean ====
section
/-! SUPPORT. Beside State: for each named update of the state, one lemma per field, so that no later proof
unfolds a record update. Then the operations that are only another spelling of `setSeq`. -/

namespace Sys2Proof.Machine

/-- The race draws' own fields, the only ones a draw changes. -/
def State.setDraws (s : State) (choices : List Nat) (drawn : Nat) : State :=
  { s with env := { s.env with choices := choices, choicesDrawn := drawn } }

variable (s : State)

/-! ### setSeq -/

@[simp] theorem State.setSeq_seq (q : Seq) : (s.setSeq q).seq = q := rfl
@[simp] theorem State.setSeq_blockNumber (q : Seq) : (s.setSeq q).blockNumber = s.blockNumber := rfl
@[simp] theorem State.setSeq_length (q : Seq) : (s.setSeq q).length = s.length := rfl
@[simp] theorem State.setSeq_bufBase (q : Seq) : (s.setSeq q).bufBase = s.bufBase := rfl
@[simp] theorem State.setSeq_workSpeed (q : Seq) : (s.setSeq q).workSpeed = s.workSpeed := rfl
@[simp] theorem State.setSeq_result (q : Seq) : (s.setSeq q).result = s.result := rfl
@[simp] theorem State.setSeq_lastOp (q : Seq) : (s.setSeq q).lastOp = s.lastOp := rfl
@[simp] theorem State.setSeq_blockCount (q : Seq) : (s.setSeq q).blockCount = s.blockCount := rfl
@[simp] theorem State.setSeq_phase (q : Seq) : (s.setSeq q).phase = s.phase := rfl
@[simp] theorem State.setSeq_blockScale (q : Seq) : (s.setSeq q).blockScale = s.blockScale := rfl
@[simp] theorem State.setSeq_busSpeed (q : Seq) : (s.setSeq q).busSpeed = s.busSpeed := rfl
@[simp] theorem State.setSeq_csN (q : Seq) : (s.setSeq q).csN = s.csN := rfl
@[simp] theorem State.setSeq_opLatch (q : Seq) : (s.setSeq q).opLatch = s.opLatch := rfl
@[simp] theorem State.setSeq_cmdFrame (q : Seq) : (s.setSeq q).cmdFrame = s.cmdFrame := rfl
@[simp] theorem State.setSeq_r1Tries (q : Seq) : (s.setSeq q).r1Tries = s.r1Tries := rfl
@[simp] theorem State.setSeq_r1 (q : Seq) : (s.setSeq q).r1 = s.r1 := rfl
@[simp] theorem State.setSeq_crc7 (q : Seq) : (s.setSeq q).crc7 = s.crc7 := rfl
@[simp] theorem State.setSeq_crc16 (q : Seq) : (s.setSeq q).crc16 = s.crc16 := rfl
@[simp] theorem State.setSeq_acmd41Iter (q : Seq) : (s.setSeq q).acmd41Iter = s.acmd41Iter := rfl
@[simp] theorem State.setSeq_t0 (q : Seq) : (s.setSeq q).t0 = s.t0 := rfl
@[simp] theorem State.setSeq_blk (q : Seq) : (s.setSeq q).blk = s.blk := rfl
@[simp] theorem State.setSeq_idx (q : Seq) : (s.setSeq q).idx = s.idx := rfl
@[simp] theorem State.setSeq_csd (q : Seq) : (s.setSeq q).csd = s.csd := rfl
@[simp] theorem State.setSeq_ocr (q : Seq) : (s.setSeq q).ocr = s.ocr := rfl
@[simp] theorem State.setSeq_rx (q : Seq) : (s.setSeq q).rx = s.rx := rfl
@[simp] theorem State.setSeq_resetIn (q : Seq) : (s.setSeq q).resetIn = s.resetIn := rfl
@[simp] theorem State.setSeq_mem (q : Seq) : (s.setSeq q).mem = s.mem := rfl
@[simp] theorem State.setSeq_trace (q : Seq) : (s.setSeq q).trace = s.trace := rfl
@[simp] theorem State.setSeq_race (q : Seq) : (s.setSeq q).race = s.race := rfl
@[simp] theorem State.setSeq_hostRd (q : Seq) : (s.setSeq q).hostRd = s.hostRd := rfl
@[simp] theorem State.setSeq_hostLoads (q : Seq) : (s.setSeq q).hostLoads = s.hostLoads := rfl
@[simp] theorem State.setSeq_env (q : Seq) : (s.setSeq q).env = s.env := rfl
@[simp] theorem State.setSeq_params (q : Seq) : (s.setSeq q).params = s.params := rfl

/-! ### record -/

@[simp] theorem State.record_seq (e : BusEvent) : (s.record e).seq = s.seq := rfl
@[simp] theorem State.record_blockNumber (e : BusEvent) :
    (s.record e).blockNumber = s.blockNumber := rfl
@[simp] theorem State.record_length (e : BusEvent) : (s.record e).length = s.length := rfl
@[simp] theorem State.record_bufBase (e : BusEvent) : (s.record e).bufBase = s.bufBase := rfl
@[simp] theorem State.record_workSpeed (e : BusEvent) : (s.record e).workSpeed = s.workSpeed := rfl
@[simp] theorem State.record_result (e : BusEvent) : (s.record e).result = s.result := rfl
@[simp] theorem State.record_lastOp (e : BusEvent) : (s.record e).lastOp = s.lastOp := rfl
@[simp] theorem State.record_blockCount (e : BusEvent) :
    (s.record e).blockCount = s.blockCount := rfl
@[simp] theorem State.record_phase (e : BusEvent) : (s.record e).phase = s.phase := rfl
@[simp] theorem State.record_blockScale (e : BusEvent) :
    (s.record e).blockScale = s.blockScale := rfl
@[simp] theorem State.record_busSpeed (e : BusEvent) : (s.record e).busSpeed = s.busSpeed := rfl
@[simp] theorem State.record_csN (e : BusEvent) : (s.record e).csN = s.csN := rfl
@[simp] theorem State.record_opLatch (e : BusEvent) : (s.record e).opLatch = s.opLatch := rfl
@[simp] theorem State.record_cmdFrame (e : BusEvent) : (s.record e).cmdFrame = s.cmdFrame := rfl
@[simp] theorem State.record_r1Tries (e : BusEvent) : (s.record e).r1Tries = s.r1Tries := rfl
@[simp] theorem State.record_r1 (e : BusEvent) : (s.record e).r1 = s.r1 := rfl
@[simp] theorem State.record_crc7 (e : BusEvent) : (s.record e).crc7 = s.crc7 := rfl
@[simp] theorem State.record_crc16 (e : BusEvent) : (s.record e).crc16 = s.crc16 := rfl
@[simp] theorem State.record_acmd41Iter (e : BusEvent) :
    (s.record e).acmd41Iter = s.acmd41Iter := rfl
@[simp] theorem State.record_t0 (e : BusEvent) : (s.record e).t0 = s.t0 := rfl
@[simp] theorem State.record_blk (e : BusEvent) : (s.record e).blk = s.blk := rfl
@[simp] theorem State.record_idx (e : BusEvent) : (s.record e).idx = s.idx := rfl
@[simp] theorem State.record_csd (e : BusEvent) : (s.record e).csd = s.csd := rfl
@[simp] theorem State.record_ocr (e : BusEvent) : (s.record e).ocr = s.ocr := rfl
@[simp] theorem State.record_rx (e : BusEvent) : (s.record e).rx = s.rx := rfl
@[simp] theorem State.record_resetIn (e : BusEvent) : (s.record e).resetIn = s.resetIn := rfl
@[simp] theorem State.record_mem (e : BusEvent) : (s.record e).mem = s.mem := rfl
@[simp] theorem State.record_trace (e : BusEvent) : (s.record e).trace = e :: s.trace := rfl
@[simp] theorem State.record_race (e : BusEvent) : (s.record e).race = s.race := rfl
@[simp] theorem State.record_hostRd (e : BusEvent) : (s.record e).hostRd = s.hostRd := rfl
@[simp] theorem State.record_hostLoads (e : BusEvent) : (s.record e).hostLoads = s.hostLoads := rfl
@[simp] theorem State.record_env (e : BusEvent) : (s.record e).env = s.env := rfl
@[simp] theorem State.record_params (e : BusEvent) : (s.record e).params = s.params := rfl

/-! ### select -/

@[simp] theorem State.select_seq : (s.select).seq = s.seq := rfl
@[simp] theorem State.select_blockNumber : (s.select).blockNumber = s.blockNumber := rfl
@[simp] theorem State.select_length : (s.select).length = s.length := rfl
@[simp] theorem State.select_bufBase : (s.select).bufBase = s.bufBase := rfl
@[simp] theorem State.select_workSpeed : (s.select).workSpeed = s.workSpeed := rfl
@[simp] theorem State.select_result : (s.select).result = s.result := rfl
@[simp] theorem State.select_lastOp : (s.select).lastOp = s.lastOp := rfl
@[simp] theorem State.select_blockCount : (s.select).blockCount = s.blockCount := rfl
@[simp] theorem State.select_phase : (s.select).phase = s.phase := rfl
@[simp] theorem State.select_blockScale : (s.select).blockScale = s.blockScale := rfl
@[simp] theorem State.select_busSpeed : (s.select).busSpeed = s.busSpeed := rfl
@[simp] theorem State.select_csN : (s.select).csN = false := rfl
@[simp] theorem State.select_opLatch : (s.select).opLatch = s.opLatch := rfl
@[simp] theorem State.select_cmdFrame : (s.select).cmdFrame = s.cmdFrame := rfl
@[simp] theorem State.select_r1Tries : (s.select).r1Tries = s.r1Tries := rfl
@[simp] theorem State.select_r1 : (s.select).r1 = s.r1 := rfl
@[simp] theorem State.select_crc7 : (s.select).crc7 = s.crc7 := rfl
@[simp] theorem State.select_crc16 : (s.select).crc16 = s.crc16 := rfl
@[simp] theorem State.select_acmd41Iter : (s.select).acmd41Iter = s.acmd41Iter := rfl
@[simp] theorem State.select_t0 : (s.select).t0 = s.t0 := rfl
@[simp] theorem State.select_blk : (s.select).blk = s.blk := rfl
@[simp] theorem State.select_idx : (s.select).idx = s.idx := rfl
@[simp] theorem State.select_csd : (s.select).csd = s.csd := rfl
@[simp] theorem State.select_ocr : (s.select).ocr = s.ocr := rfl
@[simp] theorem State.select_rx : (s.select).rx = s.rx := rfl
@[simp] theorem State.select_resetIn : (s.select).resetIn = s.resetIn := rfl
@[simp] theorem State.select_mem : (s.select).mem = s.mem := rfl
@[simp] theorem State.select_trace : (s.select).trace = .cs false :: s.trace := rfl
@[simp] theorem State.select_race : (s.select).race = s.race := rfl
@[simp] theorem State.select_hostRd : (s.select).hostRd = s.hostRd := rfl
@[simp] theorem State.select_hostLoads : (s.select).hostLoads = s.hostLoads := rfl
@[simp] theorem State.select_env : (s.select).env = s.env := rfl
@[simp] theorem State.select_params : (s.select).params = s.params := rfl

/-! ### deselect -/

@[simp] theorem State.deselect_seq : (s.deselect).seq = s.seq := rfl
@[simp] theorem State.deselect_blockNumber : (s.deselect).blockNumber = s.blockNumber := rfl
@[simp] theorem State.deselect_length : (s.deselect).length = s.length := rfl
@[simp] theorem State.deselect_bufBase : (s.deselect).bufBase = s.bufBase := rfl
@[simp] theorem State.deselect_workSpeed : (s.deselect).workSpeed = s.workSpeed := rfl
@[simp] theorem State.deselect_result : (s.deselect).result = s.result := rfl
@[simp] theorem State.deselect_lastOp : (s.deselect).lastOp = s.lastOp := rfl
@[simp] theorem State.deselect_blockCount : (s.deselect).blockCount = s.blockCount := rfl
@[simp] theorem State.deselect_phase : (s.deselect).phase = s.phase := rfl
@[simp] theorem State.deselect_blockScale : (s.deselect).blockScale = s.blockScale := rfl
@[simp] theorem State.deselect_busSpeed : (s.deselect).busSpeed = s.busSpeed := rfl
@[simp] theorem State.deselect_csN : (s.deselect).csN = true := rfl
@[simp] theorem State.deselect_opLatch : (s.deselect).opLatch = s.opLatch := rfl
@[simp] theorem State.deselect_cmdFrame : (s.deselect).cmdFrame = s.cmdFrame := rfl
@[simp] theorem State.deselect_r1Tries : (s.deselect).r1Tries = s.r1Tries := rfl
@[simp] theorem State.deselect_r1 : (s.deselect).r1 = s.r1 := rfl
@[simp] theorem State.deselect_crc7 : (s.deselect).crc7 = s.crc7 := rfl
@[simp] theorem State.deselect_crc16 : (s.deselect).crc16 = s.crc16 := rfl
@[simp] theorem State.deselect_acmd41Iter : (s.deselect).acmd41Iter = s.acmd41Iter := rfl
@[simp] theorem State.deselect_t0 : (s.deselect).t0 = s.t0 := rfl
@[simp] theorem State.deselect_blk : (s.deselect).blk = s.blk := rfl
@[simp] theorem State.deselect_idx : (s.deselect).idx = s.idx := rfl
@[simp] theorem State.deselect_csd : (s.deselect).csd = s.csd := rfl
@[simp] theorem State.deselect_ocr : (s.deselect).ocr = s.ocr := rfl
@[simp] theorem State.deselect_rx : (s.deselect).rx = s.rx := rfl
@[simp] theorem State.deselect_resetIn : (s.deselect).resetIn = s.resetIn := rfl
@[simp] theorem State.deselect_mem : (s.deselect).mem = s.mem := rfl
@[simp] theorem State.deselect_trace : (s.deselect).trace = .cs true :: s.trace := rfl
@[simp] theorem State.deselect_race : (s.deselect).race = s.race := rfl
@[simp] theorem State.deselect_hostRd : (s.deselect).hostRd = s.hostRd := rfl
@[simp] theorem State.deselect_hostLoads : (s.deselect).hostLoads = s.hostLoads := rfl
@[simp] theorem State.deselect_env : (s.deselect).env = s.env := rfl
@[simp] theorem State.deselect_params : (s.deselect).params = s.params := rfl

/-! ### reconfigure -/

@[simp] theorem State.reconfigure_seq (f : Word) : (s.reconfigure f).seq = s.seq := rfl
@[simp] theorem State.reconfigure_blockNumber (f : Word) :
    (s.reconfigure f).blockNumber = s.blockNumber := rfl
@[simp] theorem State.reconfigure_length (f : Word) : (s.reconfigure f).length = s.length := rfl
@[simp] theorem State.reconfigure_bufBase (f : Word) : (s.reconfigure f).bufBase = s.bufBase := rfl
@[simp] theorem State.reconfigure_workSpeed (f : Word) :
    (s.reconfigure f).workSpeed = s.workSpeed := rfl
@[simp] theorem State.reconfigure_result (f : Word) : (s.reconfigure f).result = s.result := rfl
@[simp] theorem State.reconfigure_lastOp (f : Word) : (s.reconfigure f).lastOp = s.lastOp := rfl
@[simp] theorem State.reconfigure_blockCount (f : Word) :
    (s.reconfigure f).blockCount = s.blockCount := rfl
@[simp] theorem State.reconfigure_phase (f : Word) : (s.reconfigure f).phase = s.phase := rfl
@[simp] theorem State.reconfigure_blockScale (f : Word) :
    (s.reconfigure f).blockScale = s.blockScale := rfl
@[simp] theorem State.reconfigure_busSpeed (f : Word) : (s.reconfigure f).busSpeed = f := rfl
@[simp] theorem State.reconfigure_csN (f : Word) : (s.reconfigure f).csN = s.csN := rfl
@[simp] theorem State.reconfigure_opLatch (f : Word) : (s.reconfigure f).opLatch = s.opLatch := rfl
@[simp] theorem State.reconfigure_cmdFrame (f : Word) :
    (s.reconfigure f).cmdFrame = s.cmdFrame := rfl
@[simp] theorem State.reconfigure_r1Tries (f : Word) : (s.reconfigure f).r1Tries = s.r1Tries := rfl
@[simp] theorem State.reconfigure_r1 (f : Word) : (s.reconfigure f).r1 = s.r1 := rfl
@[simp] theorem State.reconfigure_crc7 (f : Word) : (s.reconfigure f).crc7 = s.crc7 := rfl
@[simp] theorem State.reconfigure_crc16 (f : Word) : (s.reconfigure f).crc16 = s.crc16 := rfl
@[simp] theorem State.reconfigure_acmd41Iter (f : Word) :
    (s.reconfigure f).acmd41Iter = s.acmd41Iter := rfl
@[simp] theorem State.reconfigure_t0 (f : Word) : (s.reconfigure f).t0 = s.t0 := rfl
@[simp] theorem State.reconfigure_blk (f : Word) : (s.reconfigure f).blk = s.blk := rfl
@[simp] theorem State.reconfigure_idx (f : Word) : (s.reconfigure f).idx = s.idx := rfl
@[simp] theorem State.reconfigure_csd (f : Word) : (s.reconfigure f).csd = s.csd := rfl
@[simp] theorem State.reconfigure_ocr (f : Word) : (s.reconfigure f).ocr = s.ocr := rfl
@[simp] theorem State.reconfigure_rx (f : Word) : (s.reconfigure f).rx = s.rx := rfl
@[simp] theorem State.reconfigure_resetIn (f : Word) : (s.reconfigure f).resetIn = s.resetIn := rfl
@[simp] theorem State.reconfigure_mem (f : Word) : (s.reconfigure f).mem = s.mem := rfl
@[simp] theorem State.reconfigure_trace (f : Word) :
    (s.reconfigure f).trace = .spd f :: s.trace := rfl
@[simp] theorem State.reconfigure_race (f : Word) : (s.reconfigure f).race = s.race := rfl
@[simp] theorem State.reconfigure_hostRd (f : Word) : (s.reconfigure f).hostRd = s.hostRd := rfl
@[simp] theorem State.reconfigure_hostLoads (f : Word) :
    (s.reconfigure f).hostLoads = s.hostLoads := rfl
@[simp] theorem State.reconfigure_env (f : Word) : (s.reconfigure f).env = s.env := rfl
@[simp] theorem State.reconfigure_params (f : Word) : (s.reconfigure f).params = s.params := rfl

/-! ### memWrite -/

@[simp] theorem State.memWrite_seq (a : Word) (v : Byte) : (s.memWrite a v).seq = s.seq := rfl
@[simp] theorem State.memWrite_blockNumber (a : Word) (v : Byte) :
    (s.memWrite a v).blockNumber = s.blockNumber := rfl
@[simp] theorem State.memWrite_length (a : Word) (v : Byte) :
    (s.memWrite a v).length = s.length := rfl
@[simp] theorem State.memWrite_bufBase (a : Word) (v : Byte) :
    (s.memWrite a v).bufBase = s.bufBase := rfl
@[simp] theorem State.memWrite_workSpeed (a : Word) (v : Byte) :
    (s.memWrite a v).workSpeed = s.workSpeed := rfl
@[simp] theorem State.memWrite_result (a : Word) (v : Byte) :
    (s.memWrite a v).result = s.result := rfl
@[simp] theorem State.memWrite_lastOp (a : Word) (v : Byte) :
    (s.memWrite a v).lastOp = s.lastOp := rfl
@[simp] theorem State.memWrite_blockCount (a : Word) (v : Byte) :
    (s.memWrite a v).blockCount = s.blockCount := rfl
@[simp] theorem State.memWrite_phase (a : Word) (v : Byte) : (s.memWrite a v).phase = s.phase := rfl
@[simp] theorem State.memWrite_blockScale (a : Word) (v : Byte) :
    (s.memWrite a v).blockScale = s.blockScale := rfl
@[simp] theorem State.memWrite_busSpeed (a : Word) (v : Byte) :
    (s.memWrite a v).busSpeed = s.busSpeed := rfl
@[simp] theorem State.memWrite_csN (a : Word) (v : Byte) : (s.memWrite a v).csN = s.csN := rfl
@[simp] theorem State.memWrite_opLatch (a : Word) (v : Byte) :
    (s.memWrite a v).opLatch = s.opLatch := rfl
@[simp] theorem State.memWrite_cmdFrame (a : Word) (v : Byte) :
    (s.memWrite a v).cmdFrame = s.cmdFrame := rfl
@[simp] theorem State.memWrite_r1Tries (a : Word) (v : Byte) :
    (s.memWrite a v).r1Tries = s.r1Tries := rfl
@[simp] theorem State.memWrite_r1 (a : Word) (v : Byte) : (s.memWrite a v).r1 = s.r1 := rfl
@[simp] theorem State.memWrite_crc7 (a : Word) (v : Byte) : (s.memWrite a v).crc7 = s.crc7 := rfl
@[simp] theorem State.memWrite_crc16 (a : Word) (v : Byte) : (s.memWrite a v).crc16 = s.crc16 := rfl
@[simp] theorem State.memWrite_acmd41Iter (a : Word) (v : Byte) :
    (s.memWrite a v).acmd41Iter = s.acmd41Iter := rfl
@[simp] theorem State.memWrite_t0 (a : Word) (v : Byte) : (s.memWrite a v).t0 = s.t0 := rfl
@[simp] theorem State.memWrite_blk (a : Word) (v : Byte) : (s.memWrite a v).blk = s.blk := rfl
@[simp] theorem State.memWrite_idx (a : Word) (v : Byte) : (s.memWrite a v).idx = s.idx := rfl
@[simp] theorem State.memWrite_csd (a : Word) (v : Byte) : (s.memWrite a v).csd = s.csd := rfl
@[simp] theorem State.memWrite_ocr (a : Word) (v : Byte) : (s.memWrite a v).ocr = s.ocr := rfl
@[simp] theorem State.memWrite_rx (a : Word) (v : Byte) : (s.memWrite a v).rx = s.rx := rfl
@[simp] theorem State.memWrite_resetIn (a : Word) (v : Byte) :
    (s.memWrite a v).resetIn = s.resetIn := rfl
@[simp] theorem State.memWrite_mem (a : Word) (v : Byte) :
    (s.memWrite a v).mem = s.mem.write a.toNat v := rfl
@[simp] theorem State.memWrite_trace (a : Word) (v : Byte) : (s.memWrite a v).trace = s.trace := rfl
@[simp] theorem State.memWrite_race (a : Word) (v : Byte) : (s.memWrite a v).race = s.race := rfl
@[simp] theorem State.memWrite_hostRd (a : Word) (v : Byte) :
    (s.memWrite a v).hostRd = s.hostRd := rfl
@[simp] theorem State.memWrite_hostLoads (a : Word) (v : Byte) :
    (s.memWrite a v).hostLoads = s.hostLoads := rfl
@[simp] theorem State.memWrite_env (a : Word) (v : Byte) : (s.memWrite a v).env = s.env := rfl
@[simp] theorem State.memWrite_params (a : Word) (v : Byte) :
    (s.memWrite a v).params = s.params := rfl

/-! ### finish -/

@[simp] theorem State.finish_seq (code : ResultCode) : (s.finish code).seq = .idle := rfl
@[simp] theorem State.finish_blockNumber (code : ResultCode) :
    (s.finish code).blockNumber = s.blockNumber := rfl
@[simp] theorem State.finish_length (code : ResultCode) : (s.finish code).length = s.length := rfl
@[simp] theorem State.finish_bufBase (code : ResultCode) :
    (s.finish code).bufBase = s.bufBase := rfl
@[simp] theorem State.finish_workSpeed (code : ResultCode) :
    (s.finish code).workSpeed = s.workSpeed := rfl
@[simp] theorem State.finish_result (code : ResultCode) : (s.finish code).result = code := rfl
@[simp] theorem State.finish_lastOp (code : ResultCode) : (s.finish code).lastOp = s.lastOp := rfl
@[simp] theorem State.finish_blockCount (code : ResultCode) :
    (s.finish code).blockCount = s.blockCount := rfl
@[simp] theorem State.finish_phase (code : ResultCode) : (s.finish code).phase = s.phase := rfl
@[simp] theorem State.finish_blockScale (code : ResultCode) :
    (s.finish code).blockScale = s.blockScale := rfl
@[simp] theorem State.finish_busSpeed (code : ResultCode) :
    (s.finish code).busSpeed = s.busSpeed := rfl
@[simp] theorem State.finish_csN (code : ResultCode) : (s.finish code).csN = s.csN := rfl
@[simp] theorem State.finish_opLatch (code : ResultCode) :
    (s.finish code).opLatch = s.opLatch := rfl
@[simp] theorem State.finish_cmdFrame (code : ResultCode) :
    (s.finish code).cmdFrame = s.cmdFrame := rfl
@[simp] theorem State.finish_r1Tries (code : ResultCode) :
    (s.finish code).r1Tries = s.r1Tries := rfl
@[simp] theorem State.finish_r1 (code : ResultCode) : (s.finish code).r1 = s.r1 := rfl
@[simp] theorem State.finish_crc7 (code : ResultCode) : (s.finish code).crc7 = s.crc7 := rfl
@[simp] theorem State.finish_crc16 (code : ResultCode) : (s.finish code).crc16 = s.crc16 := rfl
@[simp] theorem State.finish_acmd41Iter (code : ResultCode) :
    (s.finish code).acmd41Iter = s.acmd41Iter := rfl
@[simp] theorem State.finish_t0 (code : ResultCode) : (s.finish code).t0 = s.t0 := rfl
@[simp] theorem State.finish_blk (code : ResultCode) : (s.finish code).blk = s.blk := rfl
@[simp] theorem State.finish_idx (code : ResultCode) : (s.finish code).idx = s.idx := rfl
@[simp] theorem State.finish_csd (code : ResultCode) : (s.finish code).csd = s.csd := rfl
@[simp] theorem State.finish_ocr (code : ResultCode) : (s.finish code).ocr = s.ocr := rfl
@[simp] theorem State.finish_rx (code : ResultCode) : (s.finish code).rx = s.rx := rfl
@[simp] theorem State.finish_resetIn (code : ResultCode) :
    (s.finish code).resetIn = s.resetIn := rfl
@[simp] theorem State.finish_mem (code : ResultCode) : (s.finish code).mem = s.mem := rfl
@[simp] theorem State.finish_trace (code : ResultCode) : (s.finish code).trace = s.trace := rfl
@[simp] theorem State.finish_race (code : ResultCode) : (s.finish code).race = s.race := rfl
@[simp] theorem State.finish_hostRd (code : ResultCode) : (s.finish code).hostRd = s.hostRd := rfl
@[simp] theorem State.finish_hostLoads (code : ResultCode) :
    (s.finish code).hostLoads = s.hostLoads := rfl
@[simp] theorem State.finish_env (code : ResultCode) : (s.finish code).env = s.env := rfl
@[simp] theorem State.finish_params (code : ResultCode) : (s.finish code).params = s.params := rfl

/-! ### startAttempt -/

@[simp] theorem State.startAttempt_seq : (s.startAttempt).seq = .issue .cmd55 := rfl
@[simp] theorem State.startAttempt_blockNumber : (s.startAttempt).blockNumber = s.blockNumber := rfl
@[simp] theorem State.startAttempt_length : (s.startAttempt).length = s.length := rfl
@[simp] theorem State.startAttempt_bufBase : (s.startAttempt).bufBase = s.bufBase := rfl
@[simp] theorem State.startAttempt_workSpeed : (s.startAttempt).workSpeed = s.workSpeed := rfl
@[simp] theorem State.startAttempt_result : (s.startAttempt).result = s.result := rfl
@[simp] theorem State.startAttempt_lastOp : (s.startAttempt).lastOp = s.lastOp := rfl
@[simp] theorem State.startAttempt_blockCount : (s.startAttempt).blockCount = s.blockCount := rfl
@[simp] theorem State.startAttempt_phase : (s.startAttempt).phase = s.phase := rfl
@[simp] theorem State.startAttempt_blockScale : (s.startAttempt).blockScale = s.blockScale := rfl
@[simp] theorem State.startAttempt_busSpeed : (s.startAttempt).busSpeed = s.busSpeed := rfl
@[simp] theorem State.startAttempt_csN : (s.startAttempt).csN = s.csN := rfl
@[simp] theorem State.startAttempt_opLatch : (s.startAttempt).opLatch = s.opLatch := rfl
@[simp] theorem State.startAttempt_cmdFrame : (s.startAttempt).cmdFrame = s.cmdFrame := rfl
@[simp] theorem State.startAttempt_r1Tries : (s.startAttempt).r1Tries = s.r1Tries := rfl
@[simp] theorem State.startAttempt_r1 : (s.startAttempt).r1 = s.r1 := rfl
@[simp] theorem State.startAttempt_crc7 : (s.startAttempt).crc7 = s.crc7 := rfl
@[simp] theorem State.startAttempt_crc16 : (s.startAttempt).crc16 = s.crc16 := rfl
@[simp] theorem State.startAttempt_acmd41Iter :
    (s.startAttempt).acmd41Iter = s.acmd41Iter + 1 := rfl
@[simp] theorem State.startAttempt_t0 : (s.startAttempt).t0 = s.t0 := rfl
@[simp] theorem State.startAttempt_blk : (s.startAttempt).blk = s.blk := rfl
@[simp] theorem State.startAttempt_idx : (s.startAttempt).idx = s.idx := rfl
@[simp] theorem State.startAttempt_csd : (s.startAttempt).csd = s.csd := rfl
@[simp] theorem State.startAttempt_ocr : (s.startAttempt).ocr = s.ocr := rfl
@[simp] theorem State.startAttempt_rx : (s.startAttempt).rx = s.rx := rfl
@[simp] theorem State.startAttempt_resetIn : (s.startAttempt).resetIn = s.resetIn := rfl
@[simp] theorem State.startAttempt_mem : (s.startAttempt).mem = s.mem := rfl
@[simp] theorem State.startAttempt_trace : (s.startAttempt).trace = s.trace := rfl
@[simp] theorem State.startAttempt_race : (s.startAttempt).race = s.race := rfl
@[simp] theorem State.startAttempt_hostRd : (s.startAttempt).hostRd = s.hostRd := rfl
@[simp] theorem State.startAttempt_hostLoads : (s.startAttempt).hostLoads = s.hostLoads := rfl
@[simp] theorem State.startAttempt_env : (s.startAttempt).env = s.env := rfl
@[simp] theorem State.startAttempt_params : (s.startAttempt).params = s.params := rfl

/-! ### acceptOp -/

@[simp] theorem State.acceptOp_seq (opc : BitVec 4) (start : Seq) :
    (s.acceptOp opc start).seq = start := rfl
@[simp] theorem State.acceptOp_blockNumber (opc : BitVec 4) (start : Seq) :
    (s.acceptOp opc start).blockNumber = s.blockNumber := rfl
@[simp] theorem State.acceptOp_length (opc : BitVec 4) (start : Seq) :
    (s.acceptOp opc start).length = s.length := rfl
@[simp] theorem State.acceptOp_bufBase (opc : BitVec 4) (start : Seq) :
    (s.acceptOp opc start).bufBase = s.bufBase := rfl
@[simp] theorem State.acceptOp_workSpeed (opc : BitVec 4) (start : Seq) :
    (s.acceptOp opc start).workSpeed = s.workSpeed := rfl
@[simp] theorem State.acceptOp_result (opc : BitVec 4) (start : Seq) :
    (s.acceptOp opc start).result = .ok := rfl
@[simp] theorem State.acceptOp_lastOp (opc : BitVec 4) (start : Seq) :
    (s.acceptOp opc start).lastOp = opc := rfl
@[simp] theorem State.acceptOp_blockCount (opc : BitVec 4) (start : Seq) :
    (s.acceptOp opc start).blockCount = s.blockCount := rfl
@[simp] theorem State.acceptOp_phase (opc : BitVec 4) (start : Seq) :
    (s.acceptOp opc start).phase = s.phase := rfl
@[simp] theorem State.acceptOp_blockScale (opc : BitVec 4) (start : Seq) :
    (s.acceptOp opc start).blockScale = s.blockScale := rfl
@[simp] theorem State.acceptOp_busSpeed (opc : BitVec 4) (start : Seq) :
    (s.acceptOp opc start).busSpeed = s.busSpeed := rfl
@[simp] theorem State.acceptOp_csN (opc : BitVec 4) (start : Seq) :
    (s.acceptOp opc start).csN = s.csN := rfl
@[simp] theorem State.acceptOp_opLatch (opc : BitVec 4) (start : Seq) :
    (s.acceptOp opc start).opLatch = { opc := opc, bn := s.blockNumber, len := s.length, base := s.bufBase, ws := s.workSpeed } := rfl
@[simp] theorem State.acceptOp_cmdFrame (opc : BitVec 4) (start : Seq) :
    (s.acceptOp opc start).cmdFrame = s.cmdFrame := rfl
@[simp] theorem State.acceptOp_r1Tries (opc : BitVec 4) (start : Seq) :
    (s.acceptOp opc start).r1Tries = s.r1Tries := rfl
@[simp] theorem State.acceptOp_r1 (opc : BitVec 4) (start : Seq) :
    (s.acceptOp opc start).r1 = s.r1 := rfl
@[simp] theorem State.acceptOp_crc7 (opc : BitVec 4) (start : Seq) :
    (s.acceptOp opc start).crc7 = s.crc7 := rfl
@[simp] theorem State.acceptOp_crc16 (opc : BitVec 4) (start : Seq) :
    (s.acceptOp opc start).crc16 = s.crc16 := rfl
@[simp] theorem State.acceptOp_acmd41Iter (opc : BitVec 4) (start : Seq) :
    (s.acceptOp opc start).acmd41Iter = s.acmd41Iter := rfl
@[simp] theorem State.acceptOp_t0 (opc : BitVec 4) (start : Seq) :
    (s.acceptOp opc start).t0 = s.t0 := rfl
@[simp] theorem State.acceptOp_blk (opc : BitVec 4) (start : Seq) :
    (s.acceptOp opc start).blk = s.blk := rfl
@[simp] theorem State.acceptOp_idx (opc : BitVec 4) (start : Seq) :
    (s.acceptOp opc start).idx = s.idx := rfl
@[simp] theorem State.acceptOp_csd (opc : BitVec 4) (start : Seq) :
    (s.acceptOp opc start).csd = s.csd := rfl
@[simp] theorem State.acceptOp_ocr (opc : BitVec 4) (start : Seq) :
    (s.acceptOp opc start).ocr = s.ocr := rfl
@[simp] theorem State.acceptOp_rx (opc : BitVec 4) (start : Seq) :
    (s.acceptOp opc start).rx = s.rx := rfl
@[simp] theorem State.acceptOp_resetIn (opc : BitVec 4) (start : Seq) :
    (s.acceptOp opc start).resetIn = s.resetIn := rfl
@[simp] theorem State.acceptOp_mem (opc : BitVec 4) (start : Seq) :
    (s.acceptOp opc start).mem = s.mem := rfl
@[simp] theorem State.acceptOp_trace (opc : BitVec 4) (start : Seq) :
    (s.acceptOp opc start).trace = s.trace := rfl
@[simp] theorem State.acceptOp_race (opc : BitVec 4) (start : Seq) :
    (s.acceptOp opc start).race = { done := 0, hostWrote := [], coreWrote := [] } := rfl
@[simp] theorem State.acceptOp_hostRd (opc : BitVec 4) (start : Seq) :
    (s.acceptOp opc start).hostRd = s.hostRd := rfl
@[simp] theorem State.acceptOp_hostLoads (opc : BitVec 4) (start : Seq) :
    (s.acceptOp opc start).hostLoads = endWaiting s.hostLoads := rfl
@[simp] theorem State.acceptOp_env (opc : BitVec 4) (start : Seq) :
    (s.acceptOp opc start).env = s.env := rfl
@[simp] theorem State.acceptOp_params (opc : BitVec 4) (start : Seq) :
    (s.acceptOp opc start).params = s.params := rfl

/-! ### rejectOp -/

@[simp] theorem State.rejectOp_seq (opc : BitVec 4) (code : ResultCode) :
    (s.rejectOp opc code).seq = s.seq := rfl
@[simp] theorem State.rejectOp_blockNumber (opc : BitVec 4) (code : ResultCode) :
    (s.rejectOp opc code).blockNumber = s.blockNumber := rfl
@[simp] theorem State.rejectOp_length (opc : BitVec 4) (code : ResultCode) :
    (s.rejectOp opc code).length = s.length := rfl
@[simp] theorem State.rejectOp_bufBase (opc : BitVec 4) (code : ResultCode) :
    (s.rejectOp opc code).bufBase = s.bufBase := rfl
@[simp] theorem State.rejectOp_workSpeed (opc : BitVec 4) (code : ResultCode) :
    (s.rejectOp opc code).workSpeed = s.workSpeed := rfl
@[simp] theorem State.rejectOp_result (opc : BitVec 4) (code : ResultCode) :
    (s.rejectOp opc code).result = code := rfl
@[simp] theorem State.rejectOp_lastOp (opc : BitVec 4) (code : ResultCode) :
    (s.rejectOp opc code).lastOp = opc := rfl
@[simp] theorem State.rejectOp_blockCount (opc : BitVec 4) (code : ResultCode) :
    (s.rejectOp opc code).blockCount = s.blockCount := rfl
@[simp] theorem State.rejectOp_phase (opc : BitVec 4) (code : ResultCode) :
    (s.rejectOp opc code).phase = s.phase := rfl
@[simp] theorem State.rejectOp_blockScale (opc : BitVec 4) (code : ResultCode) :
    (s.rejectOp opc code).blockScale = s.blockScale := rfl
@[simp] theorem State.rejectOp_busSpeed (opc : BitVec 4) (code : ResultCode) :
    (s.rejectOp opc code).busSpeed = s.busSpeed := rfl
@[simp] theorem State.rejectOp_csN (opc : BitVec 4) (code : ResultCode) :
    (s.rejectOp opc code).csN = s.csN := rfl
@[simp] theorem State.rejectOp_opLatch (opc : BitVec 4) (code : ResultCode) :
    (s.rejectOp opc code).opLatch = s.opLatch := rfl
@[simp] theorem State.rejectOp_cmdFrame (opc : BitVec 4) (code : ResultCode) :
    (s.rejectOp opc code).cmdFrame = s.cmdFrame := rfl
@[simp] theorem State.rejectOp_r1Tries (opc : BitVec 4) (code : ResultCode) :
    (s.rejectOp opc code).r1Tries = s.r1Tries := rfl
@[simp] theorem State.rejectOp_r1 (opc : BitVec 4) (code : ResultCode) :
    (s.rejectOp opc code).r1 = s.r1 := rfl
@[simp] theorem State.rejectOp_crc7 (opc : BitVec 4) (code : ResultCode) :
    (s.rejectOp opc code).crc7 = s.crc7 := rfl
@[simp] theorem State.rejectOp_crc16 (opc : BitVec 4) (code : ResultCode) :
    (s.rejectOp opc code).crc16 = s.crc16 := rfl
@[simp] theorem State.rejectOp_acmd41Iter (opc : BitVec 4) (code : ResultCode) :
    (s.rejectOp opc code).acmd41Iter = s.acmd41Iter := rfl
@[simp] theorem State.rejectOp_t0 (opc : BitVec 4) (code : ResultCode) :
    (s.rejectOp opc code).t0 = s.t0 := rfl
@[simp] theorem State.rejectOp_blk (opc : BitVec 4) (code : ResultCode) :
    (s.rejectOp opc code).blk = s.blk := rfl
@[simp] theorem State.rejectOp_idx (opc : BitVec 4) (code : ResultCode) :
    (s.rejectOp opc code).idx = s.idx := rfl
@[simp] theorem State.rejectOp_csd (opc : BitVec 4) (code : ResultCode) :
    (s.rejectOp opc code).csd = s.csd := rfl
@[simp] theorem State.rejectOp_ocr (opc : BitVec 4) (code : ResultCode) :
    (s.rejectOp opc code).ocr = s.ocr := rfl
@[simp] theorem State.rejectOp_rx (opc : BitVec 4) (code : ResultCode) :
    (s.rejectOp opc code).rx = s.rx := rfl
@[simp] theorem State.rejectOp_resetIn (opc : BitVec 4) (code : ResultCode) :
    (s.rejectOp opc code).resetIn = s.resetIn := rfl
@[simp] theorem State.rejectOp_mem (opc : BitVec 4) (code : ResultCode) :
    (s.rejectOp opc code).mem = s.mem := rfl
@[simp] theorem State.rejectOp_trace (opc : BitVec 4) (code : ResultCode) :
    (s.rejectOp opc code).trace = s.trace := rfl
@[simp] theorem State.rejectOp_race (opc : BitVec 4) (code : ResultCode) :
    (s.rejectOp opc code).race = s.race := rfl
@[simp] theorem State.rejectOp_hostRd (opc : BitVec 4) (code : ResultCode) :
    (s.rejectOp opc code).hostRd = s.hostRd := rfl
@[simp] theorem State.rejectOp_hostLoads (opc : BitVec 4) (code : ResultCode) :
    (s.rejectOp opc code).hostLoads = s.hostLoads := rfl
@[simp] theorem State.rejectOp_env (opc : BitVec 4) (code : ResultCode) :
    (s.rejectOp opc code).env = s.env := rfl
@[simp] theorem State.rejectOp_params (opc : BitVec 4) (code : ResultCode) :
    (s.rejectOp opc code).params = s.params := rfl

/-! ### dropTurn -/

@[simp] theorem State.dropTurn_seq (rest : List Turn) : (s.dropTurn rest).seq = s.seq := rfl
@[simp] theorem State.dropTurn_blockNumber (rest : List Turn) :
    (s.dropTurn rest).blockNumber = s.blockNumber := rfl
@[simp] theorem State.dropTurn_length (rest : List Turn) :
    (s.dropTurn rest).length = s.length := rfl
@[simp] theorem State.dropTurn_bufBase (rest : List Turn) :
    (s.dropTurn rest).bufBase = s.bufBase := rfl
@[simp] theorem State.dropTurn_workSpeed (rest : List Turn) :
    (s.dropTurn rest).workSpeed = s.workSpeed := rfl
@[simp] theorem State.dropTurn_result (rest : List Turn) :
    (s.dropTurn rest).result = s.result := rfl
@[simp] theorem State.dropTurn_lastOp (rest : List Turn) :
    (s.dropTurn rest).lastOp = s.lastOp := rfl
@[simp] theorem State.dropTurn_blockCount (rest : List Turn) :
    (s.dropTurn rest).blockCount = s.blockCount := rfl
@[simp] theorem State.dropTurn_phase (rest : List Turn) : (s.dropTurn rest).phase = s.phase := rfl
@[simp] theorem State.dropTurn_blockScale (rest : List Turn) :
    (s.dropTurn rest).blockScale = s.blockScale := rfl
@[simp] theorem State.dropTurn_busSpeed (rest : List Turn) :
    (s.dropTurn rest).busSpeed = s.busSpeed := rfl
@[simp] theorem State.dropTurn_csN (rest : List Turn) : (s.dropTurn rest).csN = s.csN := rfl
@[simp] theorem State.dropTurn_opLatch (rest : List Turn) :
    (s.dropTurn rest).opLatch = s.opLatch := rfl
@[simp] theorem State.dropTurn_cmdFrame (rest : List Turn) :
    (s.dropTurn rest).cmdFrame = s.cmdFrame := rfl
@[simp] theorem State.dropTurn_r1Tries (rest : List Turn) :
    (s.dropTurn rest).r1Tries = s.r1Tries := rfl
@[simp] theorem State.dropTurn_r1 (rest : List Turn) : (s.dropTurn rest).r1 = s.r1 := rfl
@[simp] theorem State.dropTurn_crc7 (rest : List Turn) : (s.dropTurn rest).crc7 = s.crc7 := rfl
@[simp] theorem State.dropTurn_crc16 (rest : List Turn) : (s.dropTurn rest).crc16 = s.crc16 := rfl
@[simp] theorem State.dropTurn_acmd41Iter (rest : List Turn) :
    (s.dropTurn rest).acmd41Iter = s.acmd41Iter := rfl
@[simp] theorem State.dropTurn_t0 (rest : List Turn) : (s.dropTurn rest).t0 = s.t0 := rfl
@[simp] theorem State.dropTurn_blk (rest : List Turn) : (s.dropTurn rest).blk = s.blk := rfl
@[simp] theorem State.dropTurn_idx (rest : List Turn) : (s.dropTurn rest).idx = s.idx := rfl
@[simp] theorem State.dropTurn_csd (rest : List Turn) : (s.dropTurn rest).csd = s.csd := rfl
@[simp] theorem State.dropTurn_ocr (rest : List Turn) : (s.dropTurn rest).ocr = s.ocr := rfl
@[simp] theorem State.dropTurn_rx (rest : List Turn) : (s.dropTurn rest).rx = s.rx := rfl
@[simp] theorem State.dropTurn_resetIn (rest : List Turn) :
    (s.dropTurn rest).resetIn = s.resetIn := rfl
@[simp] theorem State.dropTurn_mem (rest : List Turn) : (s.dropTurn rest).mem = s.mem := rfl
@[simp] theorem State.dropTurn_trace (rest : List Turn) : (s.dropTurn rest).trace = s.trace := rfl
@[simp] theorem State.dropTurn_race (rest : List Turn) : (s.dropTurn rest).race = s.race := rfl
@[simp] theorem State.dropTurn_hostRd (rest : List Turn) :
    (s.dropTurn rest).hostRd = s.hostRd := rfl
@[simp] theorem State.dropTurn_hostLoads (rest : List Turn) :
    (s.dropTurn rest).hostLoads = s.hostLoads := rfl
@[simp] theorem State.dropTurn_env (rest : List Turn) :
    (s.dropTurn rest).env = { s.env with turns := rest } := rfl
@[simp] theorem State.dropTurn_params (rest : List Turn) :
    (s.dropTurn rest).params = s.params := rfl

/-! ### setDraws -/

@[simp] theorem State.setDraws_seq (cs : List Nat) (n : Nat) : (s.setDraws cs n).seq = s.seq := rfl
@[simp] theorem State.setDraws_blockNumber (cs : List Nat) (n : Nat) :
    (s.setDraws cs n).blockNumber = s.blockNumber := rfl
@[simp] theorem State.setDraws_length (cs : List Nat) (n : Nat) :
    (s.setDraws cs n).length = s.length := rfl
@[simp] theorem State.setDraws_bufBase (cs : List Nat) (n : Nat) :
    (s.setDraws cs n).bufBase = s.bufBase := rfl
@[simp] theorem State.setDraws_workSpeed (cs : List Nat) (n : Nat) :
    (s.setDraws cs n).workSpeed = s.workSpeed := rfl
@[simp] theorem State.setDraws_result (cs : List Nat) (n : Nat) :
    (s.setDraws cs n).result = s.result := rfl
@[simp] theorem State.setDraws_lastOp (cs : List Nat) (n : Nat) :
    (s.setDraws cs n).lastOp = s.lastOp := rfl
@[simp] theorem State.setDraws_blockCount (cs : List Nat) (n : Nat) :
    (s.setDraws cs n).blockCount = s.blockCount := rfl
@[simp] theorem State.setDraws_phase (cs : List Nat) (n : Nat) :
    (s.setDraws cs n).phase = s.phase := rfl
@[simp] theorem State.setDraws_blockScale (cs : List Nat) (n : Nat) :
    (s.setDraws cs n).blockScale = s.blockScale := rfl
@[simp] theorem State.setDraws_busSpeed (cs : List Nat) (n : Nat) :
    (s.setDraws cs n).busSpeed = s.busSpeed := rfl
@[simp] theorem State.setDraws_csN (cs : List Nat) (n : Nat) : (s.setDraws cs n).csN = s.csN := rfl
@[simp] theorem State.setDraws_opLatch (cs : List Nat) (n : Nat) :
    (s.setDraws cs n).opLatch = s.opLatch := rfl
@[simp] theorem State.setDraws_cmdFrame (cs : List Nat) (n : Nat) :
    (s.setDraws cs n).cmdFrame = s.cmdFrame := rfl
@[simp] theorem State.setDraws_r1Tries (cs : List Nat) (n : Nat) :
    (s.setDraws cs n).r1Tries = s.r1Tries := rfl
@[simp] theorem State.setDraws_r1 (cs : List Nat) (n : Nat) : (s.setDraws cs n).r1 = s.r1 := rfl
@[simp] theorem State.setDraws_crc7 (cs : List Nat) (n : Nat) :
    (s.setDraws cs n).crc7 = s.crc7 := rfl
@[simp] theorem State.setDraws_crc16 (cs : List Nat) (n : Nat) :
    (s.setDraws cs n).crc16 = s.crc16 := rfl
@[simp] theorem State.setDraws_acmd41Iter (cs : List Nat) (n : Nat) :
    (s.setDraws cs n).acmd41Iter = s.acmd41Iter := rfl
@[simp] theorem State.setDraws_t0 (cs : List Nat) (n : Nat) : (s.setDraws cs n).t0 = s.t0 := rfl
@[simp] theorem State.setDraws_blk (cs : List Nat) (n : Nat) : (s.setDraws cs n).blk = s.blk := rfl
@[simp] theorem State.setDraws_idx (cs : List Nat) (n : Nat) : (s.setDraws cs n).idx = s.idx := rfl
@[simp] theorem State.setDraws_csd (cs : List Nat) (n : Nat) : (s.setDraws cs n).csd = s.csd := rfl
@[simp] theorem State.setDraws_ocr (cs : List Nat) (n : Nat) : (s.setDraws cs n).ocr = s.ocr := rfl
@[simp] theorem State.setDraws_rx (cs : List Nat) (n : Nat) : (s.setDraws cs n).rx = s.rx := rfl
@[simp] theorem State.setDraws_resetIn (cs : List Nat) (n : Nat) :
    (s.setDraws cs n).resetIn = s.resetIn := rfl
@[simp] theorem State.setDraws_mem (cs : List Nat) (n : Nat) : (s.setDraws cs n).mem = s.mem := rfl
@[simp] theorem State.setDraws_trace (cs : List Nat) (n : Nat) :
    (s.setDraws cs n).trace = s.trace := rfl
@[simp] theorem State.setDraws_race (cs : List Nat) (n : Nat) :
    (s.setDraws cs n).race = s.race := rfl
@[simp] theorem State.setDraws_hostRd (cs : List Nat) (n : Nat) :
    (s.setDraws cs n).hostRd = s.hostRd := rfl
@[simp] theorem State.setDraws_hostLoads (cs : List Nat) (n : Nat) :
    (s.setDraws cs n).hostLoads = s.hostLoads := rfl
@[simp] theorem State.setDraws_env (cs : List Nat) (n : Nat) :
    (s.setDraws cs n).env = { s.env with choices := cs, choicesDrawn := n } := rfl
@[simp] theorem State.setDraws_params (cs : List Nat) (n : Nat) :
    (s.setDraws cs n).params = s.params := rfl

/-! ### setLoads -/

@[simp] theorem State.setLoads_seq (loads : List HostLoad) : (s.setLoads loads).seq = s.seq := rfl
@[simp] theorem State.setLoads_blockNumber (loads : List HostLoad) :
    (s.setLoads loads).blockNumber = s.blockNumber := rfl
@[simp] theorem State.setLoads_length (loads : List HostLoad) :
    (s.setLoads loads).length = s.length := rfl
@[simp] theorem State.setLoads_bufBase (loads : List HostLoad) :
    (s.setLoads loads).bufBase = s.bufBase := rfl
@[simp] theorem State.setLoads_workSpeed (loads : List HostLoad) :
    (s.setLoads loads).workSpeed = s.workSpeed := rfl
@[simp] theorem State.setLoads_result (loads : List HostLoad) :
    (s.setLoads loads).result = s.result := rfl
@[simp] theorem State.setLoads_lastOp (loads : List HostLoad) :
    (s.setLoads loads).lastOp = s.lastOp := rfl
@[simp] theorem State.setLoads_blockCount (loads : List HostLoad) :
    (s.setLoads loads).blockCount = s.blockCount := rfl
@[simp] theorem State.setLoads_phase (loads : List HostLoad) :
    (s.setLoads loads).phase = s.phase := rfl
@[simp] theorem State.setLoads_blockScale (loads : List HostLoad) :
    (s.setLoads loads).blockScale = s.blockScale := rfl
@[simp] theorem State.setLoads_busSpeed (loads : List HostLoad) :
    (s.setLoads loads).busSpeed = s.busSpeed := rfl
@[simp] theorem State.setLoads_csN (loads : List HostLoad) : (s.setLoads loads).csN = s.csN := rfl
@[simp] theorem State.setLoads_opLatch (loads : List HostLoad) :
    (s.setLoads loads).opLatch = s.opLatch := rfl
@[simp] theorem State.setLoads_cmdFrame (loads : List HostLoad) :
    (s.setLoads loads).cmdFrame = s.cmdFrame := rfl
@[simp] theorem State.setLoads_r1Tries (loads : List HostLoad) :
    (s.setLoads loads).r1Tries = s.r1Tries := rfl
@[simp] theorem State.setLoads_r1 (loads : List HostLoad) : (s.setLoads loads).r1 = s.r1 := rfl
@[simp] theorem State.setLoads_crc7 (loads : List HostLoad) :
    (s.setLoads loads).crc7 = s.crc7 := rfl
@[simp] theorem State.setLoads_crc16 (loads : List HostLoad) :
    (s.setLoads loads).crc16 = s.crc16 := rfl
@[simp] theorem State.setLoads_acmd41Iter (loads : List HostLoad) :
    (s.setLoads loads).acmd41Iter = s.acmd41Iter := rfl
@[simp] theorem State.setLoads_t0 (loads : List HostLoad) : (s.setLoads loads).t0 = s.t0 := rfl
@[simp] theorem State.setLoads_blk (loads : List HostLoad) : (s.setLoads loads).blk = s.blk := rfl
@[simp] theorem State.setLoads_idx (loads : List HostLoad) : (s.setLoads loads).idx = s.idx := rfl
@[simp] theorem State.setLoads_csd (loads : List HostLoad) : (s.setLoads loads).csd = s.csd := rfl
@[simp] theorem State.setLoads_ocr (loads : List HostLoad) : (s.setLoads loads).ocr = s.ocr := rfl
@[simp] theorem State.setLoads_rx (loads : List HostLoad) : (s.setLoads loads).rx = s.rx := rfl
@[simp] theorem State.setLoads_resetIn (loads : List HostLoad) :
    (s.setLoads loads).resetIn = s.resetIn := rfl
@[simp] theorem State.setLoads_mem (loads : List HostLoad) : (s.setLoads loads).mem = s.mem := rfl
@[simp] theorem State.setLoads_trace (loads : List HostLoad) :
    (s.setLoads loads).trace = s.trace := rfl
@[simp] theorem State.setLoads_race (loads : List HostLoad) :
    (s.setLoads loads).race = s.race := rfl
@[simp] theorem State.setLoads_hostRd (loads : List HostLoad) :
    (s.setLoads loads).hostRd = s.hostRd := rfl
@[simp] theorem State.setLoads_hostLoads (loads : List HostLoad) :
    (s.setLoads loads).hostLoads = loads := rfl
@[simp] theorem State.setLoads_env (loads : List HostLoad) : (s.setLoads loads).env = s.env := rfl
@[simp] theorem State.setLoads_params (loads : List HostLoad) :
    (s.setLoads loads).params = s.params := rfl

/-! ### drawCard -/

@[simp] theorem State.drawCard_seq : (s.drawCard).seq = s.seq := by
  unfold State.drawCard; split <;> rfl
@[simp] theorem State.drawCard_blockNumber : (s.drawCard).blockNumber = s.blockNumber := by
  unfold State.drawCard; split <;> rfl
@[simp] theorem State.drawCard_length : (s.drawCard).length = s.length := by
  unfold State.drawCard; split <;> rfl
@[simp] theorem State.drawCard_bufBase : (s.drawCard).bufBase = s.bufBase := by
  unfold State.drawCard; split <;> rfl
@[simp] theorem State.drawCard_workSpeed : (s.drawCard).workSpeed = s.workSpeed := by
  unfold State.drawCard; split <;> rfl
@[simp] theorem State.drawCard_result : (s.drawCard).result = s.result := by
  unfold State.drawCard; split <;> rfl
@[simp] theorem State.drawCard_lastOp : (s.drawCard).lastOp = s.lastOp := by
  unfold State.drawCard; split <;> rfl
@[simp] theorem State.drawCard_blockCount : (s.drawCard).blockCount = s.blockCount := by
  unfold State.drawCard; split <;> rfl
@[simp] theorem State.drawCard_phase : (s.drawCard).phase = s.phase := by
  unfold State.drawCard; split <;> rfl
@[simp] theorem State.drawCard_blockScale : (s.drawCard).blockScale = s.blockScale := by
  unfold State.drawCard; split <;> rfl
@[simp] theorem State.drawCard_busSpeed : (s.drawCard).busSpeed = s.busSpeed := by
  unfold State.drawCard; split <;> rfl
@[simp] theorem State.drawCard_csN : (s.drawCard).csN = s.csN := by
  unfold State.drawCard; split <;> rfl
@[simp] theorem State.drawCard_opLatch : (s.drawCard).opLatch = s.opLatch := by
  unfold State.drawCard; split <;> rfl
@[simp] theorem State.drawCard_cmdFrame : (s.drawCard).cmdFrame = s.cmdFrame := by
  unfold State.drawCard; split <;> rfl
@[simp] theorem State.drawCard_r1Tries : (s.drawCard).r1Tries = s.r1Tries := by
  unfold State.drawCard; split <;> rfl
@[simp] theorem State.drawCard_r1 : (s.drawCard).r1 = s.r1 := by
  unfold State.drawCard; split <;> rfl
@[simp] theorem State.drawCard_crc7 : (s.drawCard).crc7 = s.crc7 := by
  unfold State.drawCard; split <;> rfl
@[simp] theorem State.drawCard_crc16 : (s.drawCard).crc16 = s.crc16 := by
  unfold State.drawCard; split <;> rfl
@[simp] theorem State.drawCard_acmd41Iter : (s.drawCard).acmd41Iter = s.acmd41Iter := by
  unfold State.drawCard; split <;> rfl
@[simp] theorem State.drawCard_t0 : (s.drawCard).t0 = s.t0 := by
  unfold State.drawCard; split <;> rfl
@[simp] theorem State.drawCard_blk : (s.drawCard).blk = s.blk := by
  unfold State.drawCard; split <;> rfl
@[simp] theorem State.drawCard_idx : (s.drawCard).idx = s.idx := by
  unfold State.drawCard; split <;> rfl
@[simp] theorem State.drawCard_csd : (s.drawCard).csd = s.csd := by
  unfold State.drawCard; split <;> rfl
@[simp] theorem State.drawCard_ocr : (s.drawCard).ocr = s.ocr := by
  unfold State.drawCard; split <;> rfl
@[simp] theorem State.drawCard_resetIn : (s.drawCard).resetIn = s.resetIn := by
  unfold State.drawCard; split <;> rfl
@[simp] theorem State.drawCard_mem : (s.drawCard).mem = s.mem := by
  unfold State.drawCard; split <;> rfl
@[simp] theorem State.drawCard_trace : (s.drawCard).trace = s.trace := by
  unfold State.drawCard; split <;> rfl
@[simp] theorem State.drawCard_race : (s.drawCard).race = s.race := by
  unfold State.drawCard; split <;> rfl
@[simp] theorem State.drawCard_hostRd : (s.drawCard).hostRd = s.hostRd := by
  unfold State.drawCard; split <;> rfl
@[simp] theorem State.drawCard_hostLoads : (s.drawCard).hostLoads = s.hostLoads := by
  unfold State.drawCard; split <;> rfl
@[simp] theorem State.drawCard_params : (s.drawCard).params = s.params := by
  unfold State.drawCard; split <;> rfl

/-! ### exchange1 -/

@[simp] theorem State.exchange1_seq (t : Byte) : (s.exchange1 t).seq = s.seq := by
  simp [State.exchange1]
@[simp] theorem State.exchange1_blockNumber (t : Byte) :
    (s.exchange1 t).blockNumber = s.blockNumber := by
  simp [State.exchange1]
@[simp] theorem State.exchange1_length (t : Byte) : (s.exchange1 t).length = s.length := by
  simp [State.exchange1]
@[simp] theorem State.exchange1_bufBase (t : Byte) : (s.exchange1 t).bufBase = s.bufBase := by
  simp [State.exchange1]
@[simp] theorem State.exchange1_workSpeed (t : Byte) : (s.exchange1 t).workSpeed = s.workSpeed := by
  simp [State.exchange1]
@[simp] theorem State.exchange1_result (t : Byte) : (s.exchange1 t).result = s.result := by
  simp [State.exchange1]
@[simp] theorem State.exchange1_lastOp (t : Byte) : (s.exchange1 t).lastOp = s.lastOp := by
  simp [State.exchange1]
@[simp] theorem State.exchange1_blockCount (t : Byte) :
    (s.exchange1 t).blockCount = s.blockCount := by
  simp [State.exchange1]
@[simp] theorem State.exchange1_phase (t : Byte) : (s.exchange1 t).phase = s.phase := by
  simp [State.exchange1]
@[simp] theorem State.exchange1_blockScale (t : Byte) :
    (s.exchange1 t).blockScale = s.blockScale := by
  simp [State.exchange1]
@[simp] theorem State.exchange1_busSpeed (t : Byte) : (s.exchange1 t).busSpeed = s.busSpeed := by
  simp [State.exchange1]
@[simp] theorem State.exchange1_csN (t : Byte) : (s.exchange1 t).csN = s.csN := by
  simp [State.exchange1]
@[simp] theorem State.exchange1_opLatch (t : Byte) : (s.exchange1 t).opLatch = s.opLatch := by
  simp [State.exchange1]
@[simp] theorem State.exchange1_cmdFrame (t : Byte) : (s.exchange1 t).cmdFrame = s.cmdFrame := by
  simp [State.exchange1]
@[simp] theorem State.exchange1_r1Tries (t : Byte) : (s.exchange1 t).r1Tries = s.r1Tries := by
  simp [State.exchange1]
@[simp] theorem State.exchange1_r1 (t : Byte) : (s.exchange1 t).r1 = s.r1 := by
  simp [State.exchange1]
@[simp] theorem State.exchange1_crc7 (t : Byte) : (s.exchange1 t).crc7 = s.crc7 := by
  simp [State.exchange1]
@[simp] theorem State.exchange1_crc16 (t : Byte) : (s.exchange1 t).crc16 = s.crc16 := by
  simp [State.exchange1]
@[simp] theorem State.exchange1_acmd41Iter (t : Byte) :
    (s.exchange1 t).acmd41Iter = s.acmd41Iter := by
  simp [State.exchange1]
@[simp] theorem State.exchange1_t0 (t : Byte) : (s.exchange1 t).t0 = s.t0 := by
  simp [State.exchange1]
@[simp] theorem State.exchange1_blk (t : Byte) : (s.exchange1 t).blk = s.blk := by
  simp [State.exchange1]
@[simp] theorem State.exchange1_idx (t : Byte) : (s.exchange1 t).idx = s.idx := by
  simp [State.exchange1]
@[simp] theorem State.exchange1_csd (t : Byte) : (s.exchange1 t).csd = s.csd := by
  simp [State.exchange1]
@[simp] theorem State.exchange1_ocr (t : Byte) : (s.exchange1 t).ocr = s.ocr := by
  simp [State.exchange1]
@[simp] theorem State.exchange1_rx (t : Byte) : (s.exchange1 t).rx = s.drawCard.rx := by
  simp [State.exchange1]
@[simp] theorem State.exchange1_resetIn (t : Byte) : (s.exchange1 t).resetIn = s.resetIn := by
  simp [State.exchange1]
@[simp] theorem State.exchange1_mem (t : Byte) : (s.exchange1 t).mem = s.mem := by
  simp [State.exchange1]
@[simp] theorem State.exchange1_trace (t : Byte) :
    (s.exchange1 t).trace = .xchg t s.drawCard.rx :: s.trace := by
  simp [State.exchange1]
@[simp] theorem State.exchange1_race (t : Byte) : (s.exchange1 t).race = s.race := by
  simp [State.exchange1]
@[simp] theorem State.exchange1_hostRd (t : Byte) : (s.exchange1 t).hostRd = s.hostRd := by
  simp [State.exchange1]
@[simp] theorem State.exchange1_hostLoads (t : Byte) : (s.exchange1 t).hostLoads = s.hostLoads := by
  simp [State.exchange1]
@[simp] theorem State.exchange1_env (t : Byte) : (s.exchange1 t).env = s.drawCard.env := by
  simp [State.exchange1]
@[simp] theorem State.exchange1_params (t : Byte) : (s.exchange1 t).params = s.params := by
  simp [State.exchange1]

/-! ### readClock -/

@[simp] theorem State.readClock_seq : (s.readClock).seq = s.seq := by
  unfold State.readClock; split <;> rfl
@[simp] theorem State.readClock_blockNumber : (s.readClock).blockNumber = s.blockNumber := by
  unfold State.readClock; split <;> rfl
@[simp] theorem State.readClock_length : (s.readClock).length = s.length := by
  unfold State.readClock; split <;> rfl
@[simp] theorem State.readClock_bufBase : (s.readClock).bufBase = s.bufBase := by
  unfold State.readClock; split <;> rfl
@[simp] theorem State.readClock_workSpeed : (s.readClock).workSpeed = s.workSpeed := by
  unfold State.readClock; split <;> rfl
@[simp] theorem State.readClock_result : (s.readClock).result = s.result := by
  unfold State.readClock; split <;> rfl
@[simp] theorem State.readClock_lastOp : (s.readClock).lastOp = s.lastOp := by
  unfold State.readClock; split <;> rfl
@[simp] theorem State.readClock_blockCount : (s.readClock).blockCount = s.blockCount := by
  unfold State.readClock; split <;> rfl
@[simp] theorem State.readClock_phase : (s.readClock).phase = s.phase := by
  unfold State.readClock; split <;> rfl
@[simp] theorem State.readClock_blockScale : (s.readClock).blockScale = s.blockScale := by
  unfold State.readClock; split <;> rfl
@[simp] theorem State.readClock_busSpeed : (s.readClock).busSpeed = s.busSpeed := by
  unfold State.readClock; split <;> rfl
@[simp] theorem State.readClock_csN : (s.readClock).csN = s.csN := by
  unfold State.readClock; split <;> rfl
@[simp] theorem State.readClock_opLatch : (s.readClock).opLatch = s.opLatch := by
  unfold State.readClock; split <;> rfl
@[simp] theorem State.readClock_cmdFrame : (s.readClock).cmdFrame = s.cmdFrame := by
  unfold State.readClock; split <;> rfl
@[simp] theorem State.readClock_r1Tries : (s.readClock).r1Tries = s.r1Tries := by
  unfold State.readClock; split <;> rfl
@[simp] theorem State.readClock_r1 : (s.readClock).r1 = s.r1 := by
  unfold State.readClock; split <;> rfl
@[simp] theorem State.readClock_crc7 : (s.readClock).crc7 = s.crc7 := by
  unfold State.readClock; split <;> rfl
@[simp] theorem State.readClock_crc16 : (s.readClock).crc16 = s.crc16 := by
  unfold State.readClock; split <;> rfl
@[simp] theorem State.readClock_acmd41Iter : (s.readClock).acmd41Iter = s.acmd41Iter := by
  unfold State.readClock; split <;> rfl
@[simp] theorem State.readClock_t0 : (s.readClock).t0 = s.t0 := by
  unfold State.readClock; split <;> rfl
@[simp] theorem State.readClock_blk : (s.readClock).blk = s.blk := by
  unfold State.readClock; split <;> rfl
@[simp] theorem State.readClock_idx : (s.readClock).idx = s.idx := by
  unfold State.readClock; split <;> rfl
@[simp] theorem State.readClock_csd : (s.readClock).csd = s.csd := by
  unfold State.readClock; split <;> rfl
@[simp] theorem State.readClock_ocr : (s.readClock).ocr = s.ocr := by
  unfold State.readClock; split <;> rfl
@[simp] theorem State.readClock_rx : (s.readClock).rx = s.rx := by
  unfold State.readClock; split <;> rfl
@[simp] theorem State.readClock_resetIn : (s.readClock).resetIn = s.resetIn := by
  unfold State.readClock; split <;> rfl
@[simp] theorem State.readClock_mem : (s.readClock).mem = s.mem := by
  unfold State.readClock; split <;> rfl
@[simp] theorem State.readClock_trace : (s.readClock).trace = s.trace := by
  unfold State.readClock; split <;> rfl
@[simp] theorem State.readClock_race : (s.readClock).race = s.race := by
  unfold State.readClock; split <;> rfl
@[simp] theorem State.readClock_hostRd : (s.readClock).hostRd = s.hostRd := by
  unfold State.readClock; split <;> rfl
@[simp] theorem State.readClock_hostLoads : (s.readClock).hostLoads = s.hostLoads := by
  unfold State.readClock; split <;> rfl
@[simp] theorem State.readClock_params : (s.readClock).params = s.params := by
  unfold State.readClock; split <;> rfl

/-! ### sampleT0 -/

@[simp] theorem State.sampleT0_seq : (s.sampleT0).seq = s.seq := by
  simp [State.sampleT0]
@[simp] theorem State.sampleT0_blockNumber : (s.sampleT0).blockNumber = s.blockNumber := by
  simp [State.sampleT0]
@[simp] theorem State.sampleT0_length : (s.sampleT0).length = s.length := by
  simp [State.sampleT0]
@[simp] theorem State.sampleT0_bufBase : (s.sampleT0).bufBase = s.bufBase := by
  simp [State.sampleT0]
@[simp] theorem State.sampleT0_workSpeed : (s.sampleT0).workSpeed = s.workSpeed := by
  simp [State.sampleT0]
@[simp] theorem State.sampleT0_result : (s.sampleT0).result = s.result := by
  simp [State.sampleT0]
@[simp] theorem State.sampleT0_lastOp : (s.sampleT0).lastOp = s.lastOp := by
  simp [State.sampleT0]
@[simp] theorem State.sampleT0_blockCount : (s.sampleT0).blockCount = s.blockCount := by
  simp [State.sampleT0]
@[simp] theorem State.sampleT0_phase : (s.sampleT0).phase = s.phase := by
  simp [State.sampleT0]
@[simp] theorem State.sampleT0_blockScale : (s.sampleT0).blockScale = s.blockScale := by
  simp [State.sampleT0]
@[simp] theorem State.sampleT0_busSpeed : (s.sampleT0).busSpeed = s.busSpeed := by
  simp [State.sampleT0]
@[simp] theorem State.sampleT0_csN : (s.sampleT0).csN = s.csN := by
  simp [State.sampleT0]
@[simp] theorem State.sampleT0_opLatch : (s.sampleT0).opLatch = s.opLatch := by
  simp [State.sampleT0]
@[simp] theorem State.sampleT0_cmdFrame : (s.sampleT0).cmdFrame = s.cmdFrame := by
  simp [State.sampleT0]
@[simp] theorem State.sampleT0_r1Tries : (s.sampleT0).r1Tries = s.r1Tries := by
  simp [State.sampleT0]
@[simp] theorem State.sampleT0_r1 : (s.sampleT0).r1 = s.r1 := by
  simp [State.sampleT0]
@[simp] theorem State.sampleT0_crc7 : (s.sampleT0).crc7 = s.crc7 := by
  simp [State.sampleT0]
@[simp] theorem State.sampleT0_crc16 : (s.sampleT0).crc16 = s.crc16 := by
  simp [State.sampleT0]
@[simp] theorem State.sampleT0_acmd41Iter : (s.sampleT0).acmd41Iter = s.acmd41Iter := by
  simp [State.sampleT0]
@[simp] theorem State.sampleT0_t0 : (s.sampleT0).t0 = s.readClock.nowMs := by
  simp [State.sampleT0]
@[simp] theorem State.sampleT0_blk : (s.sampleT0).blk = s.blk := by
  simp [State.sampleT0]
@[simp] theorem State.sampleT0_idx : (s.sampleT0).idx = s.idx := by
  simp [State.sampleT0]
@[simp] theorem State.sampleT0_csd : (s.sampleT0).csd = s.csd := by
  simp [State.sampleT0]
@[simp] theorem State.sampleT0_ocr : (s.sampleT0).ocr = s.ocr := by
  simp [State.sampleT0]
@[simp] theorem State.sampleT0_rx : (s.sampleT0).rx = s.rx := by
  simp [State.sampleT0]
@[simp] theorem State.sampleT0_resetIn : (s.sampleT0).resetIn = s.resetIn := by
  simp [State.sampleT0]
@[simp] theorem State.sampleT0_mem : (s.sampleT0).mem = s.mem := by
  simp [State.sampleT0]
@[simp] theorem State.sampleT0_trace : (s.sampleT0).trace = s.trace := by
  simp [State.sampleT0]
@[simp] theorem State.sampleT0_race : (s.sampleT0).race = s.race := by
  simp [State.sampleT0]
@[simp] theorem State.sampleT0_hostRd : (s.sampleT0).hostRd = s.hostRd := by
  simp [State.sampleT0]
@[simp] theorem State.sampleT0_hostLoads : (s.sampleT0).hostLoads = s.hostLoads := by
  simp [State.sampleT0]
@[simp] theorem State.sampleT0_env : (s.sampleT0).env = s.readClock.env := by
  simp [State.sampleT0]
@[simp] theorem State.sampleT0_params : (s.sampleT0).params = s.params := by
  simp [State.sampleT0]

/-! ### Spellings of setSeq and of primitives -/

@[simp] theorem State.initFail_eq (code : ResultCode) :
    s.initFail code = s.setSeq (.endDeselect (.initFail code)) := rfl
@[simp] theorem State.ioEnd_eq (code : ResultCode) :
    s.ioEnd code = s.setSeq (.endDeselect (.blockIo code)) := rfl
@[simp] theorem State.countEnd_eq (v : BitVec 33) :
    s.countEnd v = s.setSeq (.endDeselect (.count v)) := rfl
@[simp] theorem State.sendCommand_eq (c : Cmd) (arg : Word) :
    s.sendCommand c arg = s.deselect.setSeq (.cmdPad c arg) := rfl
@[simp] theorem State.afterEnd_initOk : s.afterEnd .initOk = s.setSeq .initRaise := rfl
@[simp] theorem State.afterEnd_initFail (code : ResultCode) :
    s.afterEnd (.initFail code) = s.setSeq (.initFailed code) := rfl
@[simp] theorem State.afterEnd_blockIo (code : ResultCode) :
    s.afterEnd (.blockIo code) = s.setSeq (.fin code) := rfl
@[simp] theorem State.afterEnd_count (v : BitVec 33) :
    s.afterEnd (.count v) = s.setSeq (.countWrite v) := rfl

/-- The schedule is no business of the card. -/
@[simp] theorem State.drawCard_turns : s.drawCard.env.turns = s.env.turns := by
  unfold State.drawCard; split <;> rfl
/-- The schedule is no business of the clock. -/
@[simp] theorem State.readClock_turns : s.readClock.env.turns = s.env.turns := by
  unfold State.readClock; split <;> rfl
/-- A clock read draws no byte of the card. -/
@[simp] theorem State.readClock_card : s.readClock.env.card = s.env.card := by
  unfold State.readClock; split <;> rfl

end Sys2Proof.Machine
end

