-- ==== Sys2Proof/Laws/Buffer.lean ====
section
/-! SUPPORT. What the buffer accesses can do: a race draw changes only the draws' own fields and takes one
of the racing values; an access changes one byte, the progress, the draws and the host loads that wait
for the byte. -/

namespace Sys2Proof.Machine

/-- A race draw changes nothing but the draws' own fields. -/
theorem State.drawChoice_frame (s : State) : ∃ cs n, s.drawChoice.2 = s.setDraws cs n := by
  unfold State.drawChoice; split <;> exact ⟨_, _, rfl⟩

/-- With no rival there is no draw. -/
@[simp] theorem State.drawAmong_nil (s : State) (b : Byte) : s.drawAmong b [] = (b, s) := rfl

/-- A draw among racing values changes nothing but the draws' own fields. -/
theorem State.drawAmong_frame (s : State) (b : Byte) (rivals : List Byte) :
    ∃ cs n, (s.drawAmong b rivals).2 = s.setDraws cs n := by
  unfold State.drawAmong
  cases rivals with
  | nil => exact ⟨_, _, rfl⟩
  | cons x xs => exact s.drawChoice_frame

/-- A draw takes one of the racing values (R94). -/
theorem State.drawAmong_mem (s : State) (b : Byte) (rivals : List Byte) :
    (s.drawAmong b rivals).1 ∈ b :: rivals := by
  unfold State.drawAmong
  cases rivals with
  | nil => simp
  | cons x xs =>
    have h : s.drawChoice.1 % ((x :: xs).length + 1) < (b :: x :: xs).length :=
      Nat.mod_lt _ (by simp)
    simp only [List.getD_eq_getElem _ _ h]
    exact List.getElem_mem h

/-- The core's store of the card's byte `v` leaves this behind, where `b` is the byte in memory after it. -/
def State.stored (s : State) (a : Word) (v b : Byte) : State :=
  { s.memWrite a b with
    race := { s.race with done := s.race.done + 1,
                          coreWrote := { addr := a, old := s.memRead a, card := v } ::
                            s.race.coreWrote } }

/-- Settling a list of loads changes nothing of the state but the draws, and each load as `SettlesTo` says. -/
theorem State.settleEach_spec (s : State) (a : Word) (v : Byte) (loads : List HostLoad) :
    (∃ cs n, (s.settleEach a v loads).2 = s.setDraws cs n) ∧
      List.Forall₂ (HostLoad.SettlesTo a v) loads (s.settleEach a v loads).1 := by
  induction loads generalizing s with
  | nil => exact ⟨⟨_, _, rfl⟩, .nil⟩
  | cons l older ih =>
    simp only [State.settleEach]
    by_cases hl : l.waiting = true ∧ l.addr = a
    · rw [if_pos (by simpa using hl)]
      obtain ⟨cs, n, hf⟩ := s.drawAmong_frame l.seen [v]
      have hm := s.drawAmong_mem l.seen [v]
      obtain ⟨⟨cs', n', hs⟩, hr⟩ := ih (s.drawAmong l.seen [v]).2
      refine ⟨⟨cs', n', by simp only; rw [hs, hf]; rfl⟩, .cons ?_ hr⟩
      rw [HostLoad.SettlesTo, if_pos hl]
      simp only [List.mem_cons, List.not_mem_nil, or_false] at hm
      rcases hm with hm | hm <;> rw [hm] <;> simp
    · rw [if_neg (by simpa using hl)]
      obtain ⟨hs, hr⟩ := ih s
      exact ⟨hs, .cons (by rw [HostLoad.SettlesTo, if_neg hl]) hr⟩

/-- Receiving a byte changes nothing but the host loads that wait for it, and the draws (R94). -/
theorem State.settleLoads_spec (s : State) (a : Word) (v : Byte) :
    ∃ loads cs n, s.settleLoads a v = (s.setDraws cs n).setLoads loads ∧
      List.Forall₂ (HostLoad.SettlesTo a v) s.hostLoads loads := by
  obtain ⟨⟨cs, n, hs⟩, hr⟩ := s.settleEach_spec a v s.hostLoads
  exact ⟨_, cs, n, by simp only [State.settleLoads, hs], hr⟩

/-- The core's store: the byte stored is the card's or the host's, and the host loads waiting for it are
settled; nothing changes but these, the progress and the draws (R151, R345). -/
theorem State.coreStore_next {s t : State} {a : Word} {v : Byte} (h : s.coreStore a v = .next t) :
    s.admits a .write = true ∧
      ∃ b loads cs n, (b = v ∨ (racing s.race.hostWrote a ≠ [] ∧ b = s.memRead a)) ∧
        t = ((s.setDraws cs n).stored a v b).setLoads loads ∧
        List.Forall₂ (HostLoad.SettlesTo a v) s.hostLoads loads := by
  unfold State.coreStore at h
  split at h
  · next hadm =>
    refine ⟨hadm, ?_⟩
    simp only [Host.Outcome.next.injEq] at h
    generalize hL : hostRival (racing s.race.hostWrote a) (s.memRead a) = L at h
    have hm := s.drawAmong_mem v L
    obtain ⟨cs, n, hf⟩ := s.drawAmong_frame v L
    rw [hf] at h
    obtain ⟨loads, cs', n', hs, hr⟩ :=
      ((s.setDraws cs n).stored a v (s.drawAmong v L).1).settleLoads_spec a v
    refine ⟨(s.drawAmong v L).1, loads, cs', n', ?_, by rw [← h]; exact hs, hr⟩
    cases hw : racing s.race.hostWrote a with
    | nil =>
      rw [hw] at hL; subst hL
      exact .inl (by simp [hostRival])
    | cons x xs =>
      rw [hw] at hL; subst hL
      simp only [hostRival, List.mem_cons, List.not_mem_nil, or_false] at hm
      rcases hm with hm | hm
      · exact .inl hm
      · exact .inr ⟨by simp, hm⟩
  · cases h

/-- The core's store stops only where HOST_MEM_ADMIT refuses the address (R151, R351). -/
theorem State.coreStore_fault {s : State} {a : Word} {v : Byte} {f : Fault}
    (h : s.coreStore a v = .fault f) :
    f = .hostAccessRefused a .write ∧ s.admits a .write = false := by
  unfold State.coreStore at h
  split at h
  · cases h
  · next hadm => cases h; exact ⟨rfl, by simpa using hadm⟩

/-- The core's store is never refused. -/
theorem State.coreStore_refused {s : State} {a : Word} {v : Byte} {r : Refusal} :
    s.coreStore a v ≠ .refused r := by
  unfold State.coreStore; split <;> exact fun h => by cases h

/-- With no host store to the byte, the core stores the card's byte (R151), and the host loads waiting for it
are settled (R94). -/
theorem State.coreStore_plain {s : State} {a : Word} (v : Byte) (hadm : s.admits a .write = true)
    (hr : racing s.race.hostWrote a = []) :
    ∃ loads cs n, s.coreStore a v = .next (((s.setDraws cs n).stored a v v).setLoads loads) ∧
      List.Forall₂ (HostLoad.SettlesTo a v) s.hostLoads loads := by
  obtain ⟨loads, cs, n, hs, hl⟩ := (s.stored a v v).settleLoads_spec a v
  refine ⟨loads, cs, n, ?_, hl⟩
  simp only [State.coreStore, hadm, if_true, hr, hostRival, State.drawAmong_nil]
  exact congrArg _ hs

/-- The core's load takes the memory's byte or a racing one; nothing changes but the progress and the
draws (R94, R225). -/
theorem State.coreLoad_spec (s : State) (a : Word) :
    (s.coreLoad a).1 ∈ s.memRead a :: racing s.race.hostWrote a ∧
      ∃ cs n, (s.coreLoad a).2 =
        { s.setDraws cs n with race := { s.race with done := s.race.done + 1 } } := by
  refine ⟨s.drawAmong_mem _ _, ?_⟩
  obtain ⟨cs, n, hf⟩ := s.drawAmong_frame (s.memRead a) (racing s.race.hostWrote a)
  refine ⟨cs, n, ?_⟩
  simp only [State.coreLoad]
  rw [hf]; rfl

/-- With no host store to the byte, the core loads the memory's byte and draws nothing (R225). -/
theorem State.coreLoad_plain {s : State} {a : Word} (hr : racing s.race.hostWrote a = []) :
    s.coreLoad a = (s.memRead a, { s with race := { s.race with done := s.race.done + 1 } }) := by
  simp [State.coreLoad, hr]

/-- The host's store writes one byte, and changes nothing else but the list of races and the draws (R94,
R345). -/
theorem State.hostStore_spec (s : State) (a : Word) (v : Byte) :
    ∃ b L cs n, s.hostStore a v =
      { (s.setDraws cs n).memWrite a b with race := { s.race with hostWrote := L } } := by
  unfold State.hostStore
  split
  · obtain ⟨cs, n, hf⟩ := s.drawAmong_frame v (received s.race.coreWrote a)
    refine ⟨(s.drawAmong v (received s.race.coreWrote a)).1, s.race.hostWrote, cs, n, ?_⟩
    simp only
    rw [hf]; rfl
  · split
    · exact ⟨v, (a, s.memRead a) :: s.race.hostWrote, s.env.choices, s.env.choicesDrawn, rfl⟩
    · exact ⟨v, s.race.hostWrote, s.env.choices, s.env.choicesDrawn, rfl⟩

/-- The host's load of a byte of a running READ_BLOCKS sees a racing value, and waits for the byte where it is
still to be received; nothing else changes but the draws (R94). -/
theorem State.hostLoad_racing {s : State} {a : Word} (h : s.racesWith opcRead a = true) :
    ∃ b cs n,
      b ∈ s.memRead a :: (overwritten s.race.coreWrote a ++ received s.race.coreWrote a) ∧
      s.hostLoad a = (s.setDraws cs n).setLoads
        ({ addr := a, seen := b, waiting := decide (s.race.done ≤ s.bufOffset a) } :: s.hostLoads) := by
  obtain ⟨cs, n, hf⟩ := s.drawAmong_frame (s.memRead a)
    (overwritten s.race.coreWrote a ++ received s.race.coreWrote a)
  refine ⟨_, cs, n, s.drawAmong_mem _ _, ?_⟩
  simp only [State.hostLoad, h, if_true, hf]

/-- Any other load of the host sees the memory's byte (R81). -/
theorem State.hostLoad_plain {s : State} {a : Word} (h : s.racesWith opcRead a = false) :
    s.hostLoad a =
      s.setLoads ({ addr := a, seen := s.memRead a, waiting := false } :: s.hostLoads) := by
  unfold State.hostLoad; simp [h]

/-- The host's load changes nothing but the record of loads, by one, and the draws (R94). -/
theorem State.hostLoad_spec (s : State) (a : Word) :
    ∃ l cs n, s.hostLoad a = (s.setDraws cs n).setLoads (l :: s.hostLoads) := by
  cases h : s.racesWith opcRead a
  · exact ⟨_, s.env.choices, s.env.choicesDrawn, State.hostLoad_plain h⟩
  · obtain ⟨b, cs, n, _, hb⟩ := State.hostLoad_racing h
    exact ⟨_, cs, n, hb⟩

/-- The host's store to a byte a running READ_BLOCKS has received leaves its byte or the card's (R345). -/
theorem State.hostStore_received {s : State} {a : Word} (v : Byte) (hw : s.mem.wf = true)
    (h : s.racesWith opcRead a = true) (hd : s.bufOffset a < s.race.done) :
    (s.hostStore a v).memRead a ∈ v :: received s.race.coreWrote a := by
  have hm := s.drawAmong_mem v (received s.race.coreWrote a)
  obtain ⟨cs, n, hf⟩ := s.drawAmong_frame v (received s.race.coreWrote a)
  simp only [State.hostStore, h, hd, decide_true, Bool.and_self, if_true]
  rw [hf, State.memRead_memWrite_same _ _ _ (by exact hw)]
  exact hm

/-- The host's store to a byte that no running READ_BLOCKS has received stores it (R81). -/
theorem State.hostStore_plain {s : State} {a : Word} (v : Byte) (hw : s.mem.wf = true)
    (h : ¬(s.racesWith opcRead a = true ∧ s.bufOffset a < s.race.done)) :
    (s.hostStore a v).memRead a = v := by
  have hm := State.memRead_memWrite_same s a v hw
  unfold State.hostStore
  rw [if_neg (by simpa using h)]
  split
  · exact hm
  · exact hm

end Sys2Proof.Machine
end

