-- ==== Sys2Proof/Laws/Encoding.lean ====
section
/-! SUPPORT. The laws of a command frame: its fields read back, and the frame of each command decodes to
that command. -/

namespace Sys2Proof

@[simp] theorem Machine.frameByte0_start (index : BitVec 6) :
    (Machine.frameByte0 index).extractLsb' 6 2 = 1#2 := by
  revert index; decide

@[simp] theorem Machine.frameByte0_index (index : BitVec 6) :
    (Machine.frameByte0 index).extractLsb' 0 6 = index := by
  revert index; decide

@[simp] theorem Machine.frameByte5_end (crc : BitVec 7) :
    (Machine.frameByte5 crc).extractLsb' 0 1 = 1#1 := by
  revert crc; decide

@[simp] theorem Machine.frameByte5_crc (crc : BitVec 7) :
    (Machine.frameByte5 crc).extractLsb' 1 7 = crc := by
  revert crc; decide

/-- The four argument bytes, most significant first, are the argument (R83). -/
theorem argument_bytes (arg : Word) :
    arg.extractLsb' 24 8 ++ arg.extractLsb' 16 8 ++ arg.extractLsb' 8 8 ++ arg.extractLsb' 0 8
      = arg := by
  apply BitVec.eq_of_getLsbD_eq
  intro i hi
  simp only [BitVec.getLsbD_append, BitVec.getLsbD_extractLsb', Nat.zero_add]
  have : i < 8 ∨ (8 ≤ i ∧ i < 16) ∨ (16 ≤ i ∧ i < 24) ∨ (24 ≤ i ∧ i < 32) := by omega
  rcases this with h | ⟨h, h'⟩ | ⟨h, h'⟩ | ⟨h, h'⟩
  · simp [show i < 8 from h]
  · simp [show ¬ i < 8 by omega, show i - 8 < 8 by omega, show 8 + (i - 8) = i by omega]
  · simp [show ¬ i < 8 by omega, show ¬ i - 8 < 8 by omega, show i - 8 - 8 < 8 by omega,
      show 16 + (i - 8 - 8) = i by omega]
  · simp [show ¬ i < 8 by omega, show ¬ i - 8 < 8 by omega, show ¬ i - 8 - 8 < 8 by omega,
      show i - 8 - 8 - 8 < 8 by omega, show 24 + (i - 8 - 8 - 8) = i by omega]

/-- The first five bytes of a frame are their own fields (R83, R104). -/
theorem frameHead_bytes (index : BitVec 6) (b1 b2 b3 b4 : Byte) :
    Machine.frameHead index (b1 ++ b2 ++ b3 ++ b4) = [Machine.frameByte0 index, b1, b2, b3, b4] := by
  have e (k : Nat) (b : Byte)
      (h : ∀ i < 8, (b1 ++ b2 ++ b3 ++ b4 : Word).getLsbD (k + i) = b.getLsbD i) :
      (b1 ++ b2 ++ b3 ++ b4 : Word).extractLsb' k 8 = b := by
    apply BitVec.eq_of_getLsbD_eq
    intro i hi
    rw [BitVec.getLsbD_extractLsb', h i hi]
    simp [hi]
  unfold Machine.frameHead
  rw [e 24 b1, e 16 b2, e 8 b3, e 0 b4]
  all_goals intro i hi; simp only [BitVec.getLsbD_append]
  · simp [show i < 8 from hi]
  · simp [show ¬ (8 + i < 8) by omega]; intros; omega
  · simp [show ¬ (16 + i < 8) by omega, show ¬ (16 + i - 8 < 8) by omega,
      show 16 + i - 8 - 8 = i by omega, hi]
  · simp [show ¬ (24 + i < 8) by omega, show ¬ (24 + i - 8 < 8) by omega,
      show ¬ (24 + i - 8 - 8 < 8) by omega, show 24 + i - 8 - 8 - 8 = i by omega]

/-- The number a concatenation of fields is. -/
theorem append_toNat {m n : Nat} (a : BitVec m) (b : BitVec n) :
    (a ++ b).toNat = a.toNat * 2 ^ n + b.toNat := by
  rw [BitVec.toNat_append, Nat.shiftLeft_eq, Nat.mul_comm, ← Nat.two_pow_add_eq_or_of_lt b.isLt]

/-- The command indices as numbers (R106). -/
theorem Machine.cmdIndex_toNat (c : Cmd) : (Machine.cmdIndex c).toNat =
    match c with
    | .cmd0 => 0 | .cmd8 => 8 | .cmd9 => 9 | .cmd12 => 12 | .cmd16 => 16 | .cmd17 => 17
    | .cmd18 => 18 | .cmd24 => 24 | .cmd25 => 25 | .cmd41 => 41 | .cmd55 => 55 | .cmd58 => 58 := by
  cases c <;> rfl

/-- A command whose frame R106 fixes decodes from that frame. -/
@[simp] theorem decodeFixed_own (c : Cmd) (want : Word) (i : Instr) :
    decodeFixed c want want (Machine.frameCrc (Machine.cmdIndex c) want) i = .ok i := by
  simp [decodeFixed]

/-- A frame with its start, transmission and end bits decodes to its command (R104). -/
theorem decodeFrame_head (index : BitVec 6) (arg : Word) (crc : BitVec 7) :
    decodeFrame (Machine.frameHead index arg ++ [Machine.frameByte5 crc])
      = decodeCommand index arg crc := by
  have harg := argument_bytes arg
  simp only [Machine.frameHead, List.cons_append, List.nil_append, decodeFrame,
    Machine.frameByte0_start, Machine.frameByte5_end, Machine.frameByte5_crc, ne_eq,
    not_true_eq_false, if_false, Machine.frameByte0_index]
  rw [harg]

/-- The framer's six bytes are the head and the CRC byte (R161). -/
theorem buildFrame_toList (index : BitVec 6) (arg : Word) :
    (Machine.buildFrame index arg).toList
      = Machine.frameHead index arg ++ [Machine.frameByte5 (Machine.frameCrc index arg)] := rfl

/-- The framer's six bytes decode to their command (R161). -/
theorem decodeFrame_buildFrame (index : BitVec 6) (arg : Word) :
    decodeFrame (Machine.buildFrame index arg).toList
      = decodeCommand index arg (Machine.frameCrc index arg) := by
  rw [buildFrame_toList, decodeFrame_head]

end Sys2Proof
end

