-- ==== Sys2Proof/Laws/Step.lean ====
section
/-! SUPPORT. What a step can do, said once: whose turn it is (`step_turn`, `step_core`), and what the core
does at each control point, the decoder worked out (`coreStep`). Claims about steps cite these and split
on `seq`; they do not unfold `fetch` and `decode` again. -/

namespace Sys2Proof.Machine

/-- What the core does in its turn, by control point, with the encodings decoded. -/
def coreStep (s : State) : Outcome :=
  match s.seq with
  | .issue c => .next (s.sendCommand c (s.cmdArg c))
  | .initFill _ | .cmdPad _ _ | .cmdPoll _ _ | .r1Poll _ | .payload _ _ | .tokPoll _ | .dataRecv _
  | .crcRecv _ _ | .respPoll | .wrPoll | .endPad _ => (s.exchange1 Config.fill).afterFill
  | .tokenOut =>
    .next (s.exchange1 (if s.nBlocks ≤ 1 then Config.tokenStartBlock
      else Config.tokenStartMultiWrite)).tokenSent
  | .stopToken => .next ((s.exchange1 Config.tokenStopMultiWrite).ioEnd .ok)
  | .cmdReady c arg =>
    .next (if s.rx = Config.ready then s.setSeq (.cmdFrame c arg) else s.notReady)
  | .wrReady => .next (if s.rx = Config.ready then s.blockSent else s.notReady)
  | .r1Test c =>
    .next (if s.rx.getLsbD 7 then s.noR1 else { s with r1 := s.rx, seq := .got c (.resp s.rx) })
  | .tokTest d =>
    .next (if s.rx = Config.tokenStartBlock then { s with idx := 0, seq := .dataRecv d }
      else s.noToken)
  | .respTest =>
    .next (if s.rx.extractLsb' 0 5 = Config.dataAccepted then s.setSeq .wrT0
      else s.rejectedBlock)
  | _ => micro s

/-- A received byte with bit 7 clear is its low seven bits (R108). -/
theorem r1_byte {b : Byte} (h : b.getLsbD 7 = false) : 0#1 ++ b.extractLsb' 0 7 = b := by
  revert b; decide

/-- The frame of a command decodes to that command, which starts `send_command` (R106, R163). -/
theorem run_command (s t : State) (c : Cmd) :
    (match decode (.frame (buildFrame (cmdIndex c) (s.cmdArg c)).toList) with
      | .ok i => exec i t
      | .error _ => unmatched (.frame (buildFrame (cmdIndex c) (s.cmdArg c)).toList) t)
      = .next (t.sendCommand c (s.cmdArg c)) := by
  simp only [decode, decodeFrame_buildFrame]
  cases c <;> simp only [decodeCommand, State.cmdArg, cmdIndex_toNat, decodeFixed_own] <;> rfl

/-- The core's turn, whether the schedule is empty or lists it. -/
theorem coreTurn_run (s : State) (h : s.resetIn = false) :
    (match s.coreTurn with
      | .done t => .next t
      | .micro t => micro t
      | .run e t =>
        match decode e with
        | .ok i => exec i t
        | .error _ => unmatched e t) = coreStep s := by
  have hturn : s.coreTurn = match s.coreEncoding with
      | some e => .run e s
      | none => .micro s := by
    unfold State.coreTurn; rw [h]; rfl
  rw [hturn]
  unfold State.coreEncoding coreStep
  cases hq : s.seq with
  | issue c => exact run_command s s c
  | tokenOut =>
    by_cases hn : s.nBlocks ≤ 1
    · simp only [hn, if_true]
      change execTokenStartBlock s = _
      unfold execTokenStartBlock; rw [hq]
    · simp only [hn, if_false]; rfl
  | stopToken =>
    change execTokenStopMultiWrite s = _
    unfold execTokenStopMultiWrite; rw [hq]
  | cmdReady c arg =>
    simp only [decode, decodeReady]
    by_cases hb : s.rx = Config.ready
    · rw [if_pos hb, if_pos hb]; change execCardReady s = _; unfold execCardReady; rw [hq]
    · rw [if_neg hb, if_neg hb]; rfl
  | wrReady =>
    simp only [decode, decodeReady]
    by_cases hb : s.rx = Config.ready
    · rw [if_pos hb, if_pos hb]; change execCardReady s = _; unfold execCardReady; rw [hq]
    · rw [if_neg hb, if_neg hb]; rfl
  | r1Test c =>
    simp only [decode, decodeR1]
    cases hb : s.rx.getLsbD 7
    · simp only [Bool.false_eq_true, if_false]
      change execR1Recognise _ s = _
      unfold execR1Recognise; rw [hq]; simp only [r1_byte hb]
    · rfl
  | tokTest d =>
    simp only [decode, decodeToken]
    by_cases hb : s.rx = Config.tokenStartBlock
    · rw [if_pos hb, if_pos hb]; change execTokenStartBlock s = _; unfold execTokenStartBlock; rw [hq]
    · rw [if_neg hb, if_neg hb]; rfl
  | respTest =>
    simp only [decode, decodeResponse]
    by_cases hb : s.rx.extractLsb' 0 5 = Config.dataAccepted
    · rw [if_pos hb, if_pos hb]; change execDataResponseAccepted (s.rx.extractLsb' 5 3) s = _
      unfold execDataResponseAccepted; rw [hq]
    · rw [if_neg hb, if_neg hb]; rfl
  | _ => rfl

/-- With no turn listed and the reset input released, a step is the core's. -/
theorem step_core {s : State} (h : s.coreNext) : step s = coreStep s := by
  unfold step fetch
  rw [h.1]
  exact coreTurn_run s h.2

/-- While the reset input is asserted the core does nothing (R340). -/
theorem step_held {s : State} (ht : s.env.turns = []) (h : s.resetIn = true) : step s = .next s := by
  unfold step fetch
  rw [ht]
  simp [State.coreTurn, h]

/-- What a listed turn does, at the state with that turn taken from the schedule. -/
def turnStep (s : State) : Turn → Outcome
  | .core => if s.resetIn then .next s else coreStep s
  | .hostWrite off width w =>
    if s.resetIn then .next s
    else if off = 0x00#32 ∧ width = .word then exec (decodeOp w) s
    else .next (s.hostWriteReg off width w)
  | .hostRead off width => .next (s.hostReadReg off width)
  | .memWrite a v => .next (s.hostStore a v)
  | .memRead a => .next (s.hostLoad a)
  | .resetPin asserted => .next (s.applyReset asserted)

/-- A listed turn is taken from the schedule and done (R280). -/
theorem step_turn {s : State} {t : Turn} {rest : List Turn} (h : s.env.turns = t :: rest) :
    step s = turnStep (s.dropTurn rest) t := by
  unfold step fetch
  rw [h]
  cases t with
  | core =>
    simp only [State.takeTurn, turnStep]
    cases hr : (s.dropTurn rest).resetIn
    · exact coreTurn_run _ hr
    · unfold State.coreTurn; rw [hr]; rfl
  | hostWrite off width w =>
    simp only [State.takeTurn, turnStep, State.hostWriteTurn]
    cases hr : (s.dropTurn rest).resetIn
    · by_cases ho : off = 0x00#32 ∧ width = .word
      · simp only [Bool.false_eq_true, if_false, if_pos ho]; rfl
      · simp only [Bool.false_eq_true, if_false, if_neg ho]
    · rfl
  | _ => rfl

/-- Every step is a listed turn, the core's turn, or nothing while the reset input is asserted. -/
theorem step_cases (s : State) :
    (∃ t rest, s.env.turns = t :: rest ∧ step s = turnStep (s.dropTurn rest) t)
      ∨ (s.coreNext ∧ step s = coreStep s)
      ∨ (s.env.turns = [] ∧ s.resetIn = true ∧ step s = .next s) := by
  cases ht : s.env.turns with
  | cons t rest => exact .inl ⟨t, rest, rfl, step_turn ht⟩
  | nil =>
    cases hr : s.resetIn
    · exact .inr (.inl ⟨⟨ht, hr⟩, step_core ⟨ht, hr⟩⟩)
    · exact .inr (.inr ⟨rfl, rfl, step_held ht hr⟩)

/-- The opcode of an OP word's instruction is its bits 3:0; the eight rows are the eight cases (R102). -/
theorem decodeOp_cases (w : Word) :
    decodeOp w = .nop ∨ decodeOp w = .init ∨ decodeOp w = .readBlocks ∨ decodeOp w = .writeBlocks
      ∨ decodeOp w = .blockCount ∨ decodeOp w = .reserved5 ∨ (∃ l, decodeOp w = .reserved67 l)
      ∨ (∃ l, decodeOp w = .reserved8F l) := by
  unfold decodeOp
  split <;> simp

end Sys2Proof.Machine
end

