-- ==== Sys2Proof/Laws/Frame.lean ====
section
/-! SUPPORT. What every step of the core leaves unchanged, said once (`coreStep_frame`): the host's registers
and inputs, the latch, all of the trace but at most one new event, and, away from their own control points,
the session, the count registers, the host memory and what the host's loads saw. -/

namespace Sys2Proof.Machine

/-- The frame of one step of the core. -/
structure CoreFrame (s t : State) : Prop where
  turns : t.env.turns = s.env.turns
  resetIn : t.resetIn = s.resetIn
  params : t.params = s.params
  blockNumber : t.blockNumber = s.blockNumber
  length : t.length = s.length
  bufBase : t.bufBase = s.bufBase
  workSpeed : t.workSpeed = s.workSpeed
  lastOp : t.lastOp = s.lastOp
  opLatch : t.opLatch = s.opLatch
  hostRd : t.hostRd = s.hostRd
  hostLoads : s.seq ≠ .dataRecv .buffer → t.hostLoads = s.hostLoads
  hostWrote : t.race.hostWrote = s.race.hostWrote
  trace : t.trace = s.trace ∨ ∃ e, t.trace = e :: s.trace
  clock : s.env.clock ≤ t.env.clock
  session : opOf s.seq ≠ .init →
    t.phase = s.phase ∧ t.blockScale = s.blockScale ∧ t.busSpeed = s.busSpeed
  count : (∀ v, s.seq ≠ .countWrite v) → t.blockCount = s.blockCount
  mem : s.seq ≠ .dataRecv .buffer → t.mem = s.mem

/-- A clock read does not take the count back (R60). -/
theorem State.readClock_clock (s : State) : s.env.clock ≤ s.readClock.env.clock := by
  unfold State.readClock; split <;> simp

/-- The card does not move the clock. -/
@[simp] theorem State.drawCard_clock (s : State) : s.drawCard.env.clock = s.env.clock := by
  unfold State.drawCard; split <;> simp

/-- The frame of the exchange of a fill byte and what follows it. -/
theorem afterFill_frame {s t : State} (h : (s.exchange1 Config.fill).afterFill = .next t) :
    CoreFrame s t := by
  unfold State.afterFill at h
  simp only [State.exchange1_seq] at h
  cases hq : s.seq <;> simp only [hq] at h
  case dataRecv d =>
    cases d with
    | csd =>
      cases h
      constructor <;> simp [State.nextDataByte, hq, opOf, opOfDest, State.exchange1, State.record]
    | buffer =>
      unfold State.dataByte at h; simp only at h
      split at h
      · rename_i s' hs
        obtain ⟨_, b, loads, cs, n, _, rfl, _⟩ := State.coreStore_next hs
        cases h
        constructor <;> simp [State.nextDataByte, State.stored, hq, opOf, opOfDest, State.exchange1,
          State.record, State.setDraws, State.memWrite]
      · cases h
      · cases h
  case payload p k =>
    cases h
    cases p <;> simp only [State.payloadByte] <;> split <;> constructor <;>
      simp [hq, opOf, State.exchange1, State.record, State.setSeq, State.startAttempt]
  case crcRecv d b =>
    cases b
    · cases h; constructor <;> simp [hq, State.exchange1, State.record, State.setSeq]
    · cases h
      cases d <;> simp only [State.blockEnd, State.blockReceived] <;> (try split) <;> (try split) <;>
        constructor <;> simp [hq, State.exchange1, State.record, State.setSeq]
  case endPad k =>
    cases h
    cases k <;> constructor <;> simp [hq, State.exchange1, State.record, State.setSeq, State.afterEnd]
  all_goals
    (cases h; constructor <;> simp [hq, opOf, State.exchange1, State.record, State.setSeq])

/-- The frame of the byte of a written block (R225). -/
theorem sendDataByte_frame {s t : State} (hq : s.seq = .dataSend) (h : s.sendDataByte = .next t) :
    CoreFrame s t := by
  unfold State.sendDataByte at h
  split at h
  · obtain ⟨_, cs, n, hs⟩ := s.coreLoad_spec s.bufAddr
    simp only [hs] at h
    cases h
    constructor <;> simp [hq, State.exchange1, State.record, State.setDraws]
  · cases h

/-- The frame of every step of the core. -/
theorem coreStep_frame {s t : State} (h : coreStep s = .next t) : CoreFrame s t := by
  unfold coreStep at h
  cases hq : s.seq <;> simp only [hq, micro] at h
  case dataSend => exact sendDataByte_frame hq h
  case cmdSend c i =>
    cases h; unfold State.sendFrameByte; simp only
    split <;> constructor <;> simp [hq, State.exchange1, State.record, State.setSeq]
  case tokenOut =>
    cases h; unfold State.tokenSent; simp only [State.exchange1_seq, hq]
    split <;> constructor <;> simp [hq, State.exchange1, State.record]
  case ocrTest =>
    cases h; unfold State.step6; simp only
    split <;> constructor <;> simp [hq, opOf, State.setSeq]
  case delayTest =>
    cases h; unfold State.delayStep; simp only
    split <;> constructor <;> simp [hq, opOf, State.setSeq, State.startAttempt, State.readClock_clock]
  case got c res =>
    cases h
    unfold State.gotResult State.gotCmd0 State.gotCmd8 State.gotCmd41 State.gotCmd58 State.gotCmd16
      State.gotRead State.gotWrite State.gotCmd9 State.step6 State.startAttempt
    cases c <;> simp only <;> (try split) <;> (try split) <;> constructor <;>
      simp_all [opOf, opOfCmd, State.setSeq]
  all_goals first
    | exact afterFill_frame h
    | (cases h
       (try split) <;>
       (try simp only [State.notReady, State.noR1, State.noToken, State.rejectedBlock, hq,
         State.blockSent]) <;>
       (try split) <;> (try split) <;> constructor <;>
       simp [hq, opOf, State.readClock_clock, State.exchange1, State.record, State.setSeq,
         State.select, State.deselect, State.reconfigure, State.finish, State.sampleT0,
         State.initEntry, State.assembleFrame])

end Sys2Proof.Machine
end

