-- ==== Sys2Proof/Laws/Clock.lean ====
section
/-! SUPPORT. The clock: its free growth has no last one (R60), what a clock read does to the count, and
that a step of the core makes at most one. -/

namespace Sys2Proof

/-- However many reads are left before its next growth, the count grows again. -/
theorem Config.clockFrom_grows (n k left : Nat) : ∃ m, n ≤ m ∧ 0 < Config.clockFrom m k left := by
  induction n generalizing k left with
  | zero =>
    refine ⟨left, Nat.zero_le _, ?_⟩
    induction left with
    | zero => exact Nat.succ_pos _
    | succ left ih => exact ih
  | succ n ih =>
    cases left with
    | zero =>
      obtain ⟨m, hm, hp⟩ := ih (k + 1) (Config.clockPause (k + 1))
      exact ⟨m + 1, by omega, hp⟩
    | succ left =>
      obtain ⟨m, hm, hp⟩ := ih k left
      exact ⟨m + 1, by omega, hp⟩

/-- Weak fairness of time, in the free growth: after every read there is one at which the count has grown
(R60, R351). -/
theorem Config.clockStep_grows (n : Nat) : ∃ m, n ≤ m ∧ 0 < Config.clockStep m :=
  Config.clockFrom_grows n 0 _

namespace Machine

/-- A clock read with a growth listed takes it (R60). -/
theorem State.readClock_listed {s : State} {d : Nat} {rest : List Nat} (h : s.env.clockIn = d :: rest) :
    s.readClock = { s with
      env := { s.env with clockIn := rest, clockReads := s.env.clockReads + 1,
                          clock := s.env.clock + d } } := by
  unfold State.readClock; rw [h]

/-- A clock read with none listed grows by the free growth of that read (R60). -/
theorem State.readClock_free {s : State} (h : s.env.clockIn = []) :
    s.readClock = { s with
      env := { s.env with clockReads := s.env.clockReads + 1,
                          clock := s.env.clock + Config.clockStep s.env.clockReads } } := by
  unfold State.readClock; rw [h]

/-- The clock's part of the free inputs: the growths listed, the reads made and the count. -/
def State.clockPart (s : State) : List Nat × Nat × Nat :=
  (s.env.clockIn, s.env.clockReads, s.env.clock)

/-- An exchange reads no clock. -/
theorem State.exchange1_clockPart (s : State) (b : Byte) : (s.exchange1 b).clockPart = s.clockPart := by
  unfold State.exchange1 State.drawCard; split <;> rfl

/-- The exchange of a fill byte and what follows it read no clock. -/
theorem afterFill_clockPart {s t : State} (h : (s.exchange1 Config.fill).afterFill = .next t) :
    t.clockPart = s.clockPart := by
  rw [← State.exchange1_clockPart s Config.fill]
  generalize s.exchange1 Config.fill = x at *
  unfold State.afterFill at h
  cases hq : x.seq <;> simp only [hq] at h
  case dataRecv d =>
    cases d with
    | csd => cases h; rfl
    | buffer =>
      unfold State.dataByte at h; simp only at h
      split at h
      · rename_i s' hs
        obtain ⟨_, b, loads, cs, n, _, rfl, _⟩ := State.coreStore_next hs
        cases h; rfl
      · cases h
      · cases h
  case payload p k => cases h; cases p <;> simp only [State.payloadByte] <;> split <;> rfl
  case crcRecv d b =>
    cases b
    · cases h; rfl
    · cases h
      cases d <;> simp only [State.blockEnd, State.blockReceived] <;> (try split) <;> (try split) <;> rfl
  case endPad k => cases h; cases k <;> rfl
  all_goals (cases h; rfl)

/-- A step of the core reads the clock at most once (R60, R92). -/
theorem coreStep_clockPart {s t : State} (h : coreStep s = .next t) :
    t.clockPart = s.clockPart ∨ t.clockPart = s.readClock.clockPart := by
  unfold coreStep at h
  cases hq : s.seq <;> simp only [hq, micro] at h
  case dataSend =>
    left; unfold State.sendDataByte at h
    split at h
    · obtain ⟨_, cs, n, hs⟩ := s.coreLoad_spec s.bufAddr
      simp only [hs] at h
      cases h
      exact State.exchange1_clockPart { (s.setDraws cs n) with race := _, crc16 := _ }
        (s.coreLoad s.bufAddr).1
    · cases h
  case cmdSend c i =>
    cases h; left; unfold State.sendFrameByte; simp only
    split <;> exact s.exchange1_clockPart s.cmdFrame[i.val]
  case tokenOut =>
    cases h; left; unfold State.tokenSent
    split <;>
      exact s.exchange1_clockPart (if s.nBlocks ≤ 1 then Config.tokenStartBlock
        else Config.tokenStartMultiWrite)
  case ocrTest => cases h; left; unfold State.step6; split <;> rfl
  case delayTest => cases h; right; unfold State.delayStep; simp only; split <;> rfl
  case got c res =>
    cases h; left
    unfold State.gotResult State.gotCmd0 State.gotCmd8 State.gotCmd41 State.gotCmd58 State.gotCmd16
      State.gotRead State.gotWrite State.gotCmd9 State.step6 State.startAttempt
    cases c <;> simp only <;> (try split) <;> (try split) <;> rfl
  case cmdReady c a =>
    cases h; split
    · left; rfl
    · right; simp only [State.notReady, hq]; split <;> rfl
  case wrReady =>
    cases h; split
    · left; unfold State.blockSent; split
      · rfl
      · split <;> rfl
    · right; simp only [State.notReady, hq]; split <;> rfl
  case r1Test => cases h; left; simp only [State.noR1, hq]; split <;> rfl
  case tokTest d =>
    cases h; split
    · left; rfl
    · right; simp only [State.noToken, hq]; split
      · cases d <;> rfl
      · rfl
  case respTest => cases h; left; simp only [State.rejectedBlock, hq]; split <;> rfl
  case cmdT0 => cases h; exact .inr rfl
  case delayT0 => cases h; exact .inr rfl
  case tokT0 => cases h; exact .inr rfl
  case wrT0 => cases h; exact .inr rfl
  case crcHi => cases h; exact .inl (State.exchange1_clockPart s (s.crc16.extractLsb' 8 8))
  case crcLo => cases h; exact .inl (State.exchange1_clockPart s (s.crc16.extractLsb' 0 8))
  case stopToken => cases h; exact .inl (State.exchange1_clockPart s Config.tokenStopMultiWrite)
  all_goals first
    | exact .inl (afterFill_clockPart h)
    | (cases h; exact .inl rfl)

end Machine

end Sys2Proof
end

