-- ==== Sys2Proof/Laws/Host.lean ====
section
/-! SUPPORT. What the host's turns can do: a register access, and an OP write by whatever its opcode; then how a
run of the machine goes on after a step that answers. -/

namespace Sys2Proof.Machine

/-- A register write changes at most the four writable registers (R280). -/
theorem State.hostWriteReg_spec (s : State) (off : Word) (width : AccessWidth) (w : Word) :
    ∃ bn len base ws, s.hostWriteReg off width w =
      { s with blockNumber := bn, length := len, bufBase := base, workSpeed := ws } := by
  unfold State.hostWriteReg
  repeat' split
  all_goals exact ⟨_, _, _, _, rfl⟩

/-- A register read changes nothing but the value the host read (R283). -/
theorem State.hostReadReg_spec (s : State) (off : Word) (width : AccessWidth) :
    ∃ v, s.hostReadReg off width = { s with hostRd := v } := by
  unfold State.hostReadReg; split <;> exact ⟨_, rfl⟩

/-- An OP write answers in every state. It changes at most LAST_OP, the latch, RESULT, the race record,
which loads wait, `seq`, and the count registers, these only where it ends BLOCK_COUNT with NOT_READY (R281, R282). -/
theorem exec_decodeOp_spec (s : State) (w : Word) :
    ∃ lastOp latch result race loads seq count,
      exec (decodeOp w) s = .next { s with
        lastOp := lastOp, opLatch := latch, result := result, race := race,
        hostLoads := loads, seq := seq, blockCount := count } ∧
      (count ≠ s.blockCount → s.seq = .idle ∧ lastOp = 4#4 ∧ result = .notReady ∧ count = 0#33) := by
  rcases decodeOp_cases w with h | h | h | h | h | h | ⟨l, h⟩ | ⟨l, h⟩ <;> rw [h]
  case inr.inr.inr.inr.inl =>
    simp only [exec, execBlockCount]
    split
    · exact ⟨_, _, _, _, _, _, _, rfl, by simp⟩
    · next hb =>
      split
      · exact ⟨_, _, _, _, _, _, _, rfl, fun _ => ⟨by simpa [State.busy] using hb, rfl, rfl, rfl⟩⟩
      · exact ⟨_, _, _, _, _, _, _, rfl, by simp⟩
  all_goals
    simp only [exec, execNop, execInit, execReadBlocks, execWriteBlocks, execReserved5,
      execReserved67, execReserved8F, State.illegalOp, State.startBlocks]
    repeat' split
  all_goals exact ⟨_, _, _, _, _, _, _, rfl, by simp⟩

/-- A run goes on from the state its first step answers. -/
theorem run_next {s t : State} (n : Nat) (h : step s = .next t) :
    Host.Core.run Sys2Proof.core (n + 1) s = Host.Core.run Sys2Proof.core n t := by
  have h' : Sys2Proof.core.step s = .next t := h
  simp only [Host.Core.run, h']

/-- An exchange with the card's next byte listed (R142). -/
theorem State.exchange1_listed {s : State} {b : Byte} {rest : List Byte} (out : Byte)
    (h : s.env.card = b :: rest) : s.exchange1 out = { s with
      rx := b, trace := .xchg out b :: s.trace
      env := { s.env with card := rest, cardDrawn := s.env.cardDrawn + 1 } } := by
  unfold State.exchange1 State.drawCard; rw [h]; rfl

end Sys2Proof.Machine
end

