-- ==== Sys2Proof/Laws/PerInstr.lean ====
section
/-! SUPPORT. The family TableRow: every instruction's encoding has the fixed bits of its row of
spec/opcode_table.json, whatever its fields. The rows are written out here from the table (R102, R104, R106,
R108, R110 to R112, R118). -/

namespace Sys2Proof.Laws.TableRow

/-- The bytes of an encoding that a row describes: a frame's six, the low byte of an OP word, or the one
byte. -/
def bytesOf : Encoded → List Byte
  | .op w => [w.extractLsb' 0 8]
  | .frame bytes => bytes
  | .tx b | .rxR1 b | .rxResponse b | .rxReady b | .rxToken b => [b]

/-- A row whose bits are all fixed. -/
def fixed (bytes : List Byte) : List (Byte × Byte) := bytes.map (fun b => (0xFF#8, b))

/-- The row of an address-carrying frame: byte 0, four argument bytes, and the end bit of the last. -/
def addressed (byte0 : Byte) : List (Byte × Byte) :=
  [(0xFF#8, byte0), (0#8, 0#8), (0#8, 0#8), (0#8, 0#8), (0#8, 0#8), (0x01#8, 0x01#8)]

/-- The table's row of an instruction: for each byte in transmission order its mask and its match. -/
def row : Instr → List (Byte × Byte)
  | .nop => [(0x0F#8, 0x00#8)]
  | .init => [(0x0F#8, 0x01#8)]
  | .readBlocks => [(0x0F#8, 0x02#8)]
  | .writeBlocks => [(0x0F#8, 0x03#8)]
  | .blockCount => [(0x0F#8, 0x04#8)]
  | .reserved5 => [(0x0F#8, 0x05#8)]
  | .reserved67 _ => [(0x0E#8, 0x06#8)]
  | .reserved8F _ => [(0x08#8, 0x08#8)]
  | .cmd0 => fixed [0x40#8, 0x00#8, 0x00#8, 0x00#8, 0x00#8, 0x95#8]
  | .cmd8 => fixed [0x48#8, 0x00#8, 0x00#8, 0x01#8, 0xAA#8, 0x87#8]
  | .cmd9 => fixed [0x49#8, 0x00#8, 0x00#8, 0x00#8, 0x00#8, 0xAF#8]
  | .cmd12 => fixed [0x4C#8, 0x00#8, 0x00#8, 0x00#8, 0x00#8, 0x61#8]
  | .cmd16 => fixed [0x50#8, 0x00#8, 0x00#8, 0x02#8, 0x00#8, 0x15#8]
  | .cmd17 _ _ => addressed 0x51#8
  | .cmd18 _ _ => addressed 0x52#8
  | .cmd24 _ _ => addressed 0x58#8
  | .cmd25 _ _ => addressed 0x59#8
  | .cmd41 => fixed [0x69#8, 0x40#8, 0x00#8, 0x00#8, 0x00#8, 0x77#8]
  | .cmd55 => fixed [0x77#8, 0x00#8, 0x00#8, 0x00#8, 0x00#8, 0x65#8]
  | .cmd58 => fixed [0x7A#8, 0x00#8, 0x00#8, 0x00#8, 0x00#8, 0xFD#8]
  | .tokenStartBlock => fixed [0xFE#8]
  | .tokenStartMultiWrite => fixed [0xFC#8]
  | .tokenStopMultiWrite => fixed [0xFD#8]
  | .fill => fixed [0xFF#8]
  | .r1Recognise _ => [(0x80#8, 0x00#8)]
  | .dataResponseAccepted _ => [(0x1F#8, 0x05#8)]
  | .cardReady => fixed [0xFF#8]

/-- Whether bytes have a row's length and its fixed bits. -/
def fits : List Byte → List (Byte × Byte) → Bool
  | [], [] => true
  | b :: bytes, (mask, value) :: rest => decide (b &&& mask = value) && fits bytes rest
  | _, _ => false

/-- The encoding of an instruction fits its row. -/
def Statement (i : Instr) : Prop := fits (bytesOf (encode i)) (row i) = true

/-- An address-carrying frame fits its row, whatever its address and CRC-7 field. -/
theorem addressed_fits (c : Cmd) (addr : Word) (crc : BitVec 7) (byte0 : Byte)
    (h : Machine.frameByte0 (Machine.cmdIndex c) = byte0) :
    fits (bytesOf (encodeFrame c addr crc)) (addressed byte0) = true := by
  have hend : Machine.frameByte5 crc &&& 0x01#8 = 0x01#8 := by revert crc; decide
  have hall : byte0 &&& 0xFF#8 = byte0 := by clear h; revert byte0; decide
  simp [bytesOf, encodeFrame, Machine.frameHead, fits, addressed, h, hend, hall]

/-- The eight frames that R106 fixes whole fit their rows. -/
theorem fixed_frames : Statement .cmd0 ∧ Statement .cmd8 ∧ Statement .cmd9 ∧ Statement .cmd12 ∧
    Statement .cmd16 ∧ Statement .cmd41 ∧ Statement .cmd55 ∧ Statement .cmd58 := by
  unfold Statement; decide +kernel

theorem nop : Statement .nop := rfl
theorem init : Statement .init := rfl
theorem readBlocks : Statement .readBlocks := rfl
theorem writeBlocks : Statement .writeBlocks := rfl
theorem blockCount : Statement .blockCount := rfl
theorem reserved5 : Statement .reserved5 := rfl
theorem reserved67 (low : BitVec 1) : Statement (.reserved67 low) := by
  unfold Statement; revert low; decide
theorem reserved8F (low : BitVec 3) : Statement (.reserved8F low) := by
  unfold Statement; revert low; decide
theorem cmd0 : Statement .cmd0 := fixed_frames.1
theorem cmd8 : Statement .cmd8 := fixed_frames.2.1
theorem cmd9 : Statement .cmd9 := fixed_frames.2.2.1
theorem cmd12 : Statement .cmd12 := fixed_frames.2.2.2.1
theorem cmd16 : Statement .cmd16 := fixed_frames.2.2.2.2.1
theorem cmd17 (addr : Word) (crc : BitVec 7) : Statement (.cmd17 addr crc) :=
  addressed_fits .cmd17 addr crc _ (by decide)
theorem cmd18 (addr : Word) (crc : BitVec 7) : Statement (.cmd18 addr crc) :=
  addressed_fits .cmd18 addr crc _ (by decide)
theorem cmd24 (addr : Word) (crc : BitVec 7) : Statement (.cmd24 addr crc) :=
  addressed_fits .cmd24 addr crc _ (by decide)
theorem cmd25 (addr : Word) (crc : BitVec 7) : Statement (.cmd25 addr crc) :=
  addressed_fits .cmd25 addr crc _ (by decide)
theorem cmd41 : Statement .cmd41 := fixed_frames.2.2.2.2.2.1
theorem cmd55 : Statement .cmd55 := fixed_frames.2.2.2.2.2.2.1
theorem cmd58 : Statement .cmd58 := fixed_frames.2.2.2.2.2.2.2
theorem tokenStartBlock : Statement .tokenStartBlock := rfl
theorem tokenStartMultiWrite : Statement .tokenStartMultiWrite := rfl
theorem tokenStopMultiWrite : Statement .tokenStopMultiWrite := rfl
theorem fill : Statement .fill := rfl
theorem r1Recognise (status : BitVec 7) : Statement (.r1Recognise status) := by
  unfold Statement; revert status; decide
theorem dataResponseAccepted (high : BitVec 3) : Statement (.dataResponseAccepted high) := by
  unfold Statement; revert high; decide
theorem cardReady : Statement .cardReady := rfl

end Sys2Proof.Laws.TableRow
end

