-- ==== Sys2Proof/Tests/Slice0.lean ====
section
/-! SUPPORT. The model's own tests: the WellFormed smoke, decoding of words written out from the spec, single
steps with values of 95_test_vectors.md or of a rule's own example, and for every statement with hypotheses
a state that meets them. Expected values are the spec's. -/

namespace Sys2Proof.Machine.Tests

/-! ### Small states -/

/-- The state after reset at a control point, the core's turn next. -/
def at' (q : Seq) : State := { State.reset with seq := q }

/-- A READY session (R42) in IDLE with LENGTH and BLOCK_NUMBER set. -/
def ready (scale : BlockScale) (bn len : Word) : State :=
  { State.reset with phase := .ready, blockScale := scale, blockNumber := bn, length := len }

/-- A running transfer of `len` bytes from host address `base` at a control point. -/
def transfer (opc : BitVec 4) (q : Seq) (len base : Word) : State :=
  { State.reset with
    phase := .ready, blockScale := .block, seq := q, lastOp := opc
    opLatch := { opc := opc, bn := 0#32, len := len, base := base, ws := 0#32 } }

/-- The card's next bytes. -/
def State.withCard (s : State) (bytes : List Byte) : State :=
  { s with env := { s.env with card := bytes } }

/-- The next turns. -/
def State.withTurns (s : State) (turns : List Turn) : State :=
  { s with env := { s.env with turns := turns } }

/-- The next clock increments. -/
def State.withClock (s : State) (ds : List Nat) : State :=
  { s with env := { s.env with clockIn := ds } }

/-- The state an outcome answers, or the state after reset where it answers none. -/
def after (o : Outcome) : State :=
  match o with
  | .next t => t
  | .fault _ | .refused _ => State.reset

/-- Whether an outcome is a next state. -/
def answers (o : Outcome) : Bool :=
  match o with
  | .next _ => true
  | .fault _ | .refused _ => false

/-- The fault of an outcome. -/
def faultOf (o : Outcome) : Option Fault :=
  match o with
  | .fault f => some f
  | .next _ | .refused _ => none

/-! ### WellFormed: an ill-formed term for each check -/

theorem test_well_formed :
    (Instr.cmd17 0x00000A00#32 0x64#7).WellFormed = true ∧
    (Instr.cmd17 0x00000A00#32 0x65#7).WellFormed = false ∧
    (Instr.cmd18 0x00000400#32 0x5C#7).WellFormed = true ∧
    (Instr.cmd18 0x00000400#32 0x00#7).WellFormed = false ∧
    (Instr.cmd24 0x00000001#32 0x3E#7).WellFormed = true ∧
    (Instr.cmd24 0x00000001#32 0x3F#7).WellFormed = false ∧
    (Instr.cmd25 0x00000002#32 0x13#7).WellFormed = true ∧
    (Instr.cmd25 0x00000002#32 0x12#7).WellFormed = false := by decide +kernel

/-! ### Decoding: words written out from R102, R106, R108, R110 to R112, R118 and vectors B1, B4, B9 -/

theorem test_decode_host_ops :
    decode (.op 0x00000010#32) = .ok .nop ∧ decode (.op 0x00000001#32) = .ok .init ∧
    decode (.op 0x00000002#32) = .ok .readBlocks ∧ decode (.op 0xFFFFFFF3#32) = .ok .writeBlocks ∧
    decode (.op 0x00000004#32) = .ok .blockCount ∧ decode (.op 0x00000015#32) = .ok .reserved5 := by
  decide
theorem test_decode_reserved :
    decode (.op 0x6#32) = .ok (.reserved67 0#1) ∧ decode (.op 0x7#32) = .ok (.reserved67 1#1) ∧
    decode (.op 0x8#32) = .ok (.reserved8F 0#3) ∧ decode (.op 0xF#32) = .ok (.reserved8F 7#3) := by
  decide
theorem test_decode_fixed_frames :
    decode (.frame [0x40#8, 0x00#8, 0x00#8, 0x00#8, 0x00#8, 0x95#8]) = .ok .cmd0 ∧
    decode (.frame [0x48#8, 0x00#8, 0x00#8, 0x01#8, 0xAA#8, 0x87#8]) = .ok .cmd8 ∧
    decode (.frame [0x49#8, 0x00#8, 0x00#8, 0x00#8, 0x00#8, 0xAF#8]) = .ok .cmd9 ∧
    decode (.frame [0x4C#8, 0x00#8, 0x00#8, 0x00#8, 0x00#8, 0x61#8]) = .ok .cmd12 ∧
    decode (.frame [0x50#8, 0x00#8, 0x00#8, 0x02#8, 0x00#8, 0x15#8]) = .ok .cmd16 ∧
    decode (.frame [0x69#8, 0x40#8, 0x00#8, 0x00#8, 0x00#8, 0x77#8]) = .ok .cmd41 ∧
    decode (.frame [0x77#8, 0x00#8, 0x00#8, 0x00#8, 0x00#8, 0x65#8]) = .ok .cmd55 ∧
    decode (.frame [0x7A#8, 0x00#8, 0x00#8, 0x00#8, 0x00#8, 0xFD#8]) = .ok .cmd58 := by decide +kernel
theorem test_decode_cmd17 : decode (.frame [0x51#8, 0xFF#8, 0xFF#8, 0xFF#8, 0xFF#8, 0x7F#8]) =
    .ok (.cmd17 0xFFFFFFFF#32 0x3F#7) := by decide
theorem test_decode_cmd18 : decode (.frame [0x52#8, 0x00#8, 0x00#8, 0x04#8, 0x00#8, 0xB9#8]) =
    .ok (.cmd18 0x00000400#32 0x5C#7) := by decide
theorem test_decode_cmd24 : decode (.frame [0x58#8, 0x00#8, 0x00#8, 0x00#8, 0x01#8, 0x7D#8]) =
    .ok (.cmd24 0x00000001#32 0x3E#7) := by decide
theorem test_decode_cmd25 : decode (.frame [0x59#8, 0x00#8, 0x00#8, 0x00#8, 0x02#8, 0x27#8]) =
    .ok (.cmd25 0x00000002#32 0x13#7) := by decide
theorem test_decode_tokens :
    decode (.tx 0xFE#8) = .ok .tokenStartBlock ∧ decode (.tx 0xFC#8) = .ok .tokenStartMultiWrite ∧
    decode (.tx 0xFD#8) = .ok .tokenStopMultiWrite ∧ decode (.tx 0xFF#8) = .ok .fill ∧
    decode (.rxToken 0xFE#8) = .ok .tokenStartBlock := by decide
theorem test_decode_received :
    decode (.rxR1 0x7F#8) = .ok (.r1Recognise 0x7F#7) ∧
    decode (.rxResponse 0x25#8) = .ok (.dataResponseAccepted 0b001#3) ∧
    decode (.rxReady 0xFF#8) = .ok .cardReady := by decide

/-- Rejections by name: R104 (start, transmission and end bits, CRC, length), R105, R106, R108, R111, R112,
R224. -/
theorem test_decode_rejects :
    decode (.frame [0xC0#8, 0x00#8, 0x00#8, 0x00#8, 0x00#8, 0x95#8]) = .error .frameStartBits ∧
    decode (.frame [0x40#8, 0x00#8, 0x00#8, 0x00#8, 0x00#8, 0x94#8]) = .error .frameEndBit ∧
    decode (.frame [0x40#8, 0x00#8, 0x00#8, 0x00#8, 0x00#8, 0x97#8]) = .error .frameCrc ∧
    decode (.frame [0x40#8, 0x00#8, 0x00#8, 0x00#8, 0x00#8]) = .error .frameLength ∧
    decode (.tx 0xFB#8) = .error .notToken ∧ decode (.rxR1 0x80#8) = .error .notR1 ∧
    decode (.rxResponse 0x0D#8) = .error .notAccepted ∧ decode (.rxReady 0xFE#8) = .error .notReady ∧
    decode (.rxToken 0xFF#8) = .error .notStartToken := by decide +kernel
theorem test_decode_rejects_command :
    decodeCommand 1#6 0#32 0#7 = .error .commandIndex ∧
    decodeCommand 8#6 0x1AB#32 0#7 = .error .commandArgument := by decide
/-- A wrong CRC-7 field of an address frame is read as it stands; the instruction is ill-formed (R104;
assumption 15). -/
theorem test_decode_cmd17_wrong_crc :
    decode (.frame [0x51#8, 0x00#8, 0x00#8, 0x0A#8, 0x00#8, 0xCB#8]) =
      .ok (.cmd17 0x00000A00#32 0x65#7) := by decide

/-- The table's words (assumption 12): a frame's bit 47 is the first bit of byte 0 (R104). -/
theorem test_table_words :
    decodeTableWord 48 0x400000000095 = some .cmd0 ∧
    decodeTableWord 48 0x5100000A00C9 = some (.cmd17 0x00000A00#32 0x64#7) ∧
    decodeTableWord 8 0x4 = some .blockCount ∧ decodeTableWord 8 0xFC = some .tokenStartMultiWrite ∧
    decodeTableWord 8 0x41 = some (.r1Recognise 0x41#7) ∧
    decodeTableWord 8 0xE5 = some (.dataResponseAccepted 0b111#3) := by decide +kernel

/-- The very next step after reset runs the placed instruction (assumption 13). -/
theorem test_fetch_word :
    (after (step (State.reset.withFetchWord 8 0x1))).seq = .initEntry ∧
    (after (step (State.reset.withFetchWord 48 0x400000000095))).seq = .cmdPad .cmd0 0#32 ∧
    (after (step (State.reset.withFetchWord 48 0x5100000A00C9))).seq = .cmdPad .cmd17 0xA00#32 ∧
    (after (step (State.reset.withFetchWord 8 0xFC))).seq = .dataSend := by decide +kernel

/-! ### Single steps: host operations (B9) -/

/-- STATUS after one step. -/
def statusAfter (s : State) : Word := (after (step s)).status

/-- An OP write as the next turn. -/
def op (s : State) (w : Word) : State := State.withTurns s [.hostWrite 0x00#32 .word w]

theorem test_nop_keeps_status :
    statusAfter (op { State.reset with lastOp := 7#4, result := .illegalOp } 0x10#32) = 0x7C0#32 := by
  decide
theorem test_init_busy :
    statusAfter (op State.reset 0x1#32) = 0x101#32 ∧
    statusAfter { at' .initEntry with lastOp := 1#4 } = 0x103#32 := by decide
theorem test_read_bad_length : statusAfter (op { State.reset with length := 100#32 } 0x2#32) = 0x290#32 ∧
    statusAfter (op (ready .byte 0#32 0#32) 0x2#32) = 0x294#32 := by decide
theorem test_read_rejected :
    statusAfter (op { State.reset with length := 512#32 } 0x2#32) = 0x2B0#32 ∧
    statusAfter (op (ready .byte 0x800000#32 512#32) 0x2#32) = 0x2D4#32 := by decide
theorem test_write_rejected :
    statusAfter (op (ready .byte 0#32 513#32) 0x3#32) = 0x394#32 := by decide
theorem test_write_starts :
    (after (step (op (ready .block 2#32 1024#32) 0x3#32))).seq = .issue .cmd25 := by decide
theorem test_count_not_ready :
    statusAfter (op { State.reset with blockCount := 77#33 } 0x4#32) = 0x4B0#32 ∧
    (after (step (op { State.reset with blockCount := 77#33 } 0x4#32))).blockCount = 0#33 := by
  decide
theorem test_reserved :
    statusAfter (op State.reset 0x15#32) = 0x5C0#32 ∧ statusAfter (op State.reset 0x7#32) = 0x7C0#32 ∧
    statusAfter (op State.reset 0xF#32) = 0xFC0#32 := by decide
theorem test_op_while_busy :
    statusAfter (op { at' .initSpeed with lastOp := 1#4, phase := .initializing } 0x2#32) = 0x103#32 := by
  decide

/-! ### Single steps: commands, framer, tokens, recognisers -/

/-- PG2's address: block 5 of a byte-addressed card is 0xA00; its frame is 51 00 00 0A 00 C9. -/
theorem test_cmd17_frame :
    (after (step { transfer 2#4 (.cmdFrame .cmd17 0xA00#32) 512#32 0#32 with
      blockScale := .byte })).cmdFrame.toList =
      [0x51#8, 0x00#8, 0x00#8, 0x0A#8, 0x00#8, 0xC9#8] ∧
    cardAddr .byte 5#32 = 0xA00#32 ∧ cardAddr .byte 0x7FFFFF#32 = 0xFFFFFE00#32 := by decide +kernel
theorem test_cmd41_argument :
    (after (step (at' (.issue .cmd41)))).seq = .cmdPad .cmd41 0x40000000#32 := by decide +kernel
/-- B3.1: the 100th poll with bit 7 set is the last, and R1 on it is collected. -/
theorem test_r1_budget :
    (after (step { at' (.r1Test .cmd17) with rx := 0x80#8, r1Tries := 100 })).seq =
      .got .cmd17 .timeout ∧
    (after (step { at' (.r1Test .cmd17) with rx := 0xFE#8, r1Tries := 99 })).seq = .r1Poll .cmd17 ∧
    (after (step { at' (.r1Test .cmd17) with rx := 0x00#8, r1Tries := 100 })).seq =
      .got .cmd17 (.resp 0x00#8) := by decide
/-- B7.1: CMD0's R1 0x00 goes on; 0x05 does not. -/
theorem test_cmd0_verdict :
    (after (step (at' (.got .cmd0 (.resp 0x00#8))))).seq = .issue .cmd8 ∧
    (after (step (at' (.got .cmd0 (.resp 0x05#8))))).seq = .endDeselect (.initFail .noCard) := by
  decide
/-- B7.4: OCR byte 0 = 0x40 selects block addressing and no CMD16; 0x80 does not. -/
theorem test_ocr :
    (after (step { at' .ocrTest with ocr := #v[0x40#8, 0#8, 0#8, 0#8] })).hc = true ∧
    (after (step { at' .ocrTest with ocr := #v[0x80#8, 0xFF#8, 0x80#8, 0#8] })).seq =
      .issue .cmd16 := by decide
/-- B3.2: the wait's test at its bound, and a wrapped clock (R351 (b)). -/
theorem test_ready_wait :
    (after (step (State.withClock { at' (.cmdReady .cmd17 0#32) with rx := 0x00#8 } [500]))).seq =
      .got .cmd17 .timeout ∧
    (after (step (State.withClock { at' (.cmdReady .cmd17 0#32) with rx := 0x7F#8 } [499]))).seq =
      .cmdPoll .cmd17 0#32 ∧
    (after (step (State.withClock { at' .wrReady with rx := 0x00#8, t0 := 0xFFFFFFFF#32 } [499]))).seq =
      .endDeselect (.blockIo .writeTimeout) := by decide
/-- B4: 0x25 is accepted; 0x0D and 0xFF are rejected. -/
theorem test_data_response :
    (after (step { at' .respTest with rx := 0x25#8 })).seq = .wrT0 ∧
    (after (step { at' .respTest with rx := 0x0D#8 })).seq = .endDeselect (.blockIo .dataRejected) ∧
    (after (step { at' .respTest with rx := 0xFF#8 })).seq = .endDeselect (.blockIo .dataRejected) := by
  decide
/-- R81: buffer addresses wrap mod 2^32. -/
theorem test_received_byte_wraps :
    (after (step (State.withCard { transfer 2#4 (.dataRecv .buffer) 512#32 0xFFFFFFFF#32 with idx := 1 }
      [0xA5#8]))).memRead 0x00000000#32 = 0xA5#8 := by decide
/-- R151, R351 (c): a refused buffer access leaves the core stuck. -/
theorem test_refused_access :
    faultOf (step { transfer 2#4 (.dataRecv .buffer) 512#32 0x1000#32 with
      params := { Config.defaultParams with hostMemAdmit := [] } }) =
      some (.hostAccessRefused 0x1000#32 .write) ∧
    faultOf (step { transfer 3#4 .dataSend 512#32 0x1000#32 with
      params := { Config.defaultParams with
        hostMemAdmit := [{ base := 0, size := 0x1000, readable := true, writable := true }] } }) =
      some (.hostAccessRefused 0x1000#32 .read) := by decide
/-- R225: the byte sent is the buffer byte at `base`. -/
theorem test_sent_byte :
    (after (step { transfer 3#4 .dataSend 512#32 0x2000#32 with
      mem := [(0x2000, 0xA5#8)] })).trace.head?.map (fun e => match e with
        | .xchg t _ => t
        | .cs _ | .spd _ => 0#8) = some 0xA5#8 := by decide
/-- B6 rows 1, 4, 4a, 5, 6, 8. -/
theorem test_csd_decode :
    csdDecode #v[0x40#8, 0, 0, 0, 0, 0, 0, 0, 0, 0, 0, 0, 0, 0, 0, 0] = 1024#33 ∧
    csdDecode #v[0x40#8, 0, 0, 0, 0, 0, 0, 0x3F#8, 0xFF#8, 0xFF#8, 0, 0, 0, 0, 0, 0] =
      0x100000000#33 ∧
    csdDecode #v[0x40#8, 0, 0, 0, 0, 0, 0, 0xC0#8, 0, 0, 0, 0, 0, 0, 0, 0] = 1024#33 ∧
    csdDecode #v[0x00#8, 0, 0, 0, 0, 0, 0, 0, 0, 0, 0, 0, 0, 0, 0, 0] = 4#33 ∧
    csdDecode #v[0x00#8, 0, 0, 0, 0, 0, 0x03#8, 0xFF#8, 0xC0#8, 0x03#8, 0x80#8, 0, 0, 0, 0, 0] =
      2097152#33 ∧
    csdDecode #v[0x80#8, 0xFF#8, 0, 0, 0, 0, 0, 0xFF#8, 0xFF#8, 0xFF#8, 0, 0, 0, 0, 0, 0] = 0#33 := by
  decide
/-- B9.5: what the host reads after reset. -/
theorem test_reset_registers :
    State.reset.regValue 0x14#32 = 0#32 ∧ State.reset.regValue 0x20#32 = 100000#32 ∧
    State.reset.regValue 0x24#32 = 512#32 ∧ State.reset.regValue 0x28#32 = 0#32 ∧
    State.reset.regValue 0x15#32 = 0#32 := by decide
/-- R317: `finish` writes RESULT and goes IDLE: RESULT 7 at the end of a failed write is STATUS 0x37C (B8.1). -/
theorem test_finish : statusAfter (transfer 3#4 (.fin .dataRejected) 512#32 0#32) = 0x37C#32 := by
  decide
/-- R94: a byte the host changed before the core read it is the old or the new one, by the draw. -/
theorem test_race_draws :
    let s := { transfer 3#4 .dataSend 512#32 0x2000#32 with
      mem := [(0x2000, 0x22#8)]
      race := { done := 0, hostWrote := [(0x2000#32, 0x11#8)], coreWrote := [] } }
    (State.coreLoad { s with env := { s.env with choices := [0] } } 0x2000#32).1 = 0x22#8 ∧
    (State.coreLoad { s with env := { s.env with choices := [1] } } 0x2000#32).1 = 0x11#8 := by
  decide

/-- Host loads of a READ_BLOCKS byte before it is received: each shows the old byte, then by a draw of its
own the old or the received one, a load between them or not; a token timeout leaves the old one (R94,
R345). -/
theorem test_early_loads :
    let s := fun cs => State.hostLoad (State.hostLoad (State.hostLoad
      { transfer 2#4 (.dataRecv .buffer) 512#32 0x2000#32 with
        mem := [(0x2000, 0x11#8)], env := { State.reset.env with choices := cs } }
      0x2000#32) 0x3000#32) 0x2000#32
    (s []).hostLoads.map HostLoad.seen = [0x11#8, 0x00#8, 0x11#8] ∧
    (after ((s [0, 1]).coreStore 0x2000#32 0xA5#8)).hostLoads.map HostLoad.seen =
      [0x11#8, 0x00#8, 0xA5#8] ∧
    (after ((s [1, 0]).coreStore 0x2000#32 0xA5#8)).hostLoads.map HostLoad.seen =
      [0xA5#8, 0x00#8, 0x11#8] ∧
    (after (step (State.withClock
      { s [1, 1] with seq := .tokTest .buffer, rx := 0xFF#8 } [1000]))).hostLoads.map HostLoad.seen =
      [0x11#8, 0x00#8, 0x11#8] := by decide
/-- Two host stores to a byte a READ_BLOCKS has received: the last one's byte or the card's is final, never
the first's (R345). -/
theorem test_late_stores :
    let s := fun cs => State.hostStore (State.hostStore
      { transfer 2#4 (.dataRecv .buffer) 512#32 0x2000#32 with
        mem := [(0x2000, 0xA5#8)], env := { State.reset.env with choices := cs }
        race := { done := 1, hostWrote := []
                  coreWrote := [{ addr := 0x2000#32, old := 0x00#8, card := 0xA5#8 }] } }
      0x2000#32 0x01#8) 0x2000#32 0x02#8
    (s [0, 0]).memRead 0x2000#32 = 0x02#8 ∧ (s [0, 1]).memRead 0x2000#32 = 0xA5#8 := by decide
/-- The host's own loads and stores outside an operation are plain (R81). -/
theorem test_host_memory :
    (State.hostStore State.reset 0xFFFFFFFF#32 0x5A#8).memRead 0xFFFFFFFF#32 = 0x5A#8 ∧
    (State.hostLoad (State.hostStore State.reset 0x10#32 0x5A#8) 0x10#32).hostLoads =
      [{ addr := 0x10#32, seen := 0x5A#8, waiting := false }] := by decide

/-! ### Witnesses: for each statement with hypotheses, states and operands that meet them, each clause -/

theorem witness_NopHasNoEffect : (0xFFFFFFF0#32 : Word).extractLsb' 0 4 = 0#4 := by decide
theorem witness_InitIsAccepted : State.reset.seq = .idle := rfl
/-- The smallest length, and the largest block number of a byte-addressed card with two blocks. -/
theorem witness_BlockOperationsAreAccepted :
    (let s := ready .block 0xFFFFFFFF#32 512#32
     s.seq = .idle ∧ s.phase = .ready ∧ 0 < s.length.toNat ∧ s.length.toNat % 512 = 0 ∧
       s.blockNumber.toNat * s.blockScale.value ≤ 0xFFFFFFFF) ∧
    (let s := ready .byte 0x7FFFFF#32 1024#32
     s.seq = .idle ∧ s.phase = .ready ∧ 0 < s.length.toNat ∧ s.length.toNat % 512 = 0 ∧
       s.blockNumber.toNat * s.blockScale.value ≤ 0xFFFFFFFF) := by decide
theorem witness_BlockCountIsAccepted :
    (ready .byte 0#32 0#32).seq = .idle ∧ (ready .byte 0#32 0#32).phase = .ready := ⟨rfl, rfl⟩
theorem witness_ReservedOpcodesEndIllegalOp : State.reset.seq = .idle ∧
    5 ≤ ((0x5#32 : Word).extractLsb' 0 4).toNat ∧ 5 ≤ ((0x1F#32 : Word).extractLsb' 0 4).toNat := by
  decide
theorem witness_OpWriteWhileBusyIsIgnored : (at' .initEntry).seq ≠ .idle := by decide
theorem witness_PreChecksReject :
    (State.reset.seq = .idle ∧ State.reset.length = 0#32) ∧
    ((ready .block 0#32 513#32).seq = .idle ∧ (ready .block 0#32 513#32).length.toNat % 512 ≠ 0) ∧
    (let s := { State.reset with length := 512#32 }
     s.seq = .idle ∧ s.phase ≠ .ready ∧ s.length ≠ 0#32 ∧ s.length.toNat % 512 = 0) ∧
    (let s := ready .byte 0x800000#32 512#32
     s.seq = .idle ∧ s.phase = .ready ∧ s.length ≠ 0#32 ∧ s.length.toNat % 512 = 0 ∧
       s.blockNumber.toNat * s.blockScale.value > 0xFFFFFFFF) := by decide

/-- A state with the schedule empty and the reset input released has the core's turn next. -/
theorem at_coreNext (q : Seq) : (at' q).coreNext := ⟨rfl, rfl⟩
theorem transfer_coreNext (opc : BitVec 4) (q : Seq) (len base : Word) :
    (transfer opc q len base).coreNext := ⟨rfl, rfl⟩

/-- A control point of a READ_BLOCKS or WRITE_BLOCKS with its latched block number and the card's scale. -/
def addressed (scale : BlockScale) (bn : Word) (q : Seq) : State :=
  { at' q with blockScale := scale, opLatch := { State.reset.opLatch with bn := bn } }

/-- The four address commands, and the largest block number a byte-addressed card admits. -/
theorem witness_TransferCommandsStart :
    ∀ c ∈ [Cmd.cmd17, .cmd18, .cmd24, .cmd25], ∀ scale ∈ [BlockScale.byte, .block],
      let s := addressed scale 0x7FFFFF#32 (.issue c)
      s.coreNext ∧ s.seq = .issue c ∧ (c = .cmd17 ∨ c = .cmd18 ∨ c = .cmd24 ∨ c = .cmd25) :=
  fun c hc _ _ => ⟨⟨rfl, rfl⟩, rfl, by simpa using hc⟩
/-- By hand from R220: block 5 of a byte-addressed card is address 0xA00, of a block-addressed one 5. -/
theorem test_address_sent :
    (addressed .byte 5#32 (.issue .cmd17)).cmdArg .cmd17 = 0x00000A00#32 ∧
    (addressed .block 5#32 (.issue .cmd25)).cmdArg .cmd25 = 0x00000005#32 := by decide
/-- A command of INIT, and an address command. -/
theorem witness_SendCommandOnReadyCard :
    (let s := State.withCard (at' (.issue .cmd0)) [0#8, 0xFF#8, 0#8, 0#8, 0#8, 0#8, 0#8, 0#8, 0x01#8]
     s.coreNext ∧ s.seq = .issue .cmd0 ∧ (0x01#8 : Byte).getLsbD 7 = false ∧
      s.env.card = [0#8, 0xFF#8, 0#8, 0#8, 0#8, 0#8, 0#8, 0#8, 0x01#8] ++ []) ∧
    (let s := State.withCard (addressed .byte 5#32 (.issue .cmd17))
      [0#8, 0xFF#8, 0#8, 0#8, 0#8, 0#8, 0#8, 0#8, 0x00#8]
     s.coreNext ∧ s.seq = .issue .cmd17 ∧ (0x00#8 : Byte).getLsbD 7 = false ∧
      s.env.card = [0#8, 0xFF#8, 0#8, 0#8, 0#8, 0#8, 0#8, 0#8, 0x00#8] ++ []) :=
  ⟨⟨⟨rfl, rfl⟩, rfl, by decide, rfl⟩, ⟨rfl, rfl⟩, rfl, by decide, rfl⟩
theorem witness_ReadyWaitTests :
    (∀ q ∈ [Seq.cmdT0 .cmd0 0#32, .cmdPoll .cmd0 0#32, .wrT0, .wrPoll],
      (at' q).coreNext ∧ (at' q).seq = q) ∧
    (let s := { at' (.cmdReady .cmd0 0#32) with rx := 0xFF#8 }
     s.coreNext ∧ s.seq = .cmdReady .cmd0 0#32 ∧ s.rx = 0xFF#8) ∧
    (let s := { at' (.cmdReady .cmd0 0#32) with rx := 0x7F#8 }
     s.coreNext ∧ s.seq = .cmdReady .cmd0 0#32 ∧ s.rx ≠ 0xFF#8) ∧
    (∀ len ∈ [512#32, 1024#32], ∀ blk ∈ [0#32, 1#32],
      let s := { transfer 3#4 .wrReady len 0#32 with rx := 0xFF#8, blk := blk }
      s.coreNext ∧ s.seq = .wrReady ∧ s.rx = 0xFF#8) ∧
    (let s := { at' .wrReady with rx := 0xFE#8 }
     s.coreNext ∧ s.seq = .wrReady ∧ s.rx ≠ 0xFF#8) :=
  ⟨fun _ _ => ⟨at_coreNext _, rfl⟩, ⟨⟨rfl, rfl⟩, rfl, rfl⟩, ⟨⟨rfl, rfl⟩, rfl, by decide⟩,
    fun _ _ _ _ => ⟨⟨rfl, rfl⟩, rfl, rfl⟩, ⟨rfl, rfl⟩, rfl, by decide⟩
theorem witness_R1CollectorTests :
    (let s := { at' (.r1Test .cmd9) with rx := 0x80#8 }
     s.coreNext ∧ s.seq = .r1Test .cmd9 ∧ s.rx.getLsbD 7 = true) ∧
    (let s := { at' (.r1Test .cmd9) with rx := 0x7F#8 }
     s.coreNext ∧ s.seq = .r1Test .cmd9 ∧ s.rx.getLsbD 7 = false) :=
  ⟨⟨⟨rfl, rfl⟩, rfl, by decide⟩, ⟨rfl, rfl⟩, rfl, by decide⟩
theorem witness_R1PollTimesOutAfter100 :
    let answers : List Byte := List.replicate 100 0x80#8
    let s := State.withCard (at' (.r1Poll .cmd17)) answers
    s.coreNext ∧ s.seq = .r1Poll .cmd17 ∧ s.r1Tries = 0 ∧ answers.length = 100 ∧
      (∀ b ∈ answers, b.getLsbD 7 = true) ∧ s.env.card = answers ++ [] :=
  ⟨⟨rfl, rfl⟩, rfl, rfl, rfl, by decide, rfl⟩
theorem witness_TransportPrimitives :
    (State.withCard State.reset [0xAA#8]).env.card = 0xAA#8 :: [] ∧ State.reset.env.card = [] :=
  ⟨rfl, rfl⟩
theorem witness_ClockNeverDecreases :
    (let s := State.withClock (at' (.tokT0 .csd)) [5]
     step s = .next (after (step s)) ∧ s.env.clock < (after (step s)).env.clock) ∧
    (let s := State.withTurns (at' (.tokT0 .csd)) [.hostRead 0x14#32 .word]
     step s = .next (after (step s)) ∧ s.env.turns = .hostRead 0x14#32 .word :: [] ∧
       Turn.hostRead 0x14#32 .word ≠ .core) ∧
    (let s := State.withTurns (at' (.tokT0 .csd)) [.resetPin true]
     step s = .next (after (step s)) ∧ s.env.turns = .resetPin true :: [] ∧
       Turn.resetPin true ≠ .core) ∧
    (let s := State.withClock (at' (.tokT0 .csd)) [5]
     Host.Core.run Sys2Proof.core 1 s = .next (after (step s)) ∧
       s.env.clockReads + 1 ≤ (after (step s)).env.clockReads) :=
  ⟨⟨rfl, by decide⟩, ⟨rfl, rfl, by decide⟩, ⟨rfl, rfl, by decide⟩, rfl, by decide⟩
theorem witness_TokensGoOut : (at' .tokenOut).seq = .tokenOut ∧ (at' .stopToken).seq = .stopToken :=
  ⟨rfl, rfl⟩
theorem witness_TokenIsChosenByBlockCount :
    (let s := transfer 3#4 .tokenOut 512#32 0#32
     s.coreNext ∧ s.seq = .tokenOut ∧ 0 < s.opLatch.len.toNat / 512 ∧ s.opLatch.len.toNat / 512 = 1) ∧
    (let s := transfer 3#4 .tokenOut 1024#32 0#32
     s.coreNext ∧ s.seq = .tokenOut ∧ 0 < s.opLatch.len.toNat / 512 ∧ s.opLatch.len.toNat / 512 ≠ 1) :=
  ⟨⟨transfer_coreNext _ _ _ _, rfl, by decide, by decide⟩,
    transfer_coreNext _ _ _ _, rfl, by decide, by decide⟩
theorem witness_TokenPollTests (d : Dest) :
    ((at' (.tokT0 d)).coreNext ∧ (at' (.tokT0 d)).seq = .tokT0 d ∧ (at' (.tokPoll d)).coreNext ∧
      (at' (.tokPoll d)).seq = .tokPoll d) ∧
    (let s := { at' (.tokTest d) with rx := 0xFE#8 }
     s.coreNext ∧ s.seq = .tokTest d ∧ s.rx = 0xFE#8) ∧
    (let s := { at' (.tokTest d) with rx := 0xFF#8 }
     s.coreNext ∧ s.seq = .tokTest d ∧ s.rx ≠ 0xFE#8) :=
  ⟨⟨at_coreNext _, rfl, at_coreNext _, rfl⟩, ⟨⟨rfl, rfl⟩, rfl, rfl⟩, ⟨rfl, rfl⟩, rfl,
    by show (0xFF#8 : Byte) ≠ 0xFE#8; decide⟩
/-- A READ_BLOCKS at data byte 0 with one card byte. -/
def receiving : State := State.withCard (transfer 2#4 (.dataRecv .buffer) 512#32 0x1000#32) [0xA5#8]

theorem witness_FillCompletes :
    (receiving.seq = .dataRecv .buffer ∧ receiving.admits receiving.bufAddr .write = true) ∧
    ({ receiving with params := { Config.defaultParams with hostMemAdmit := [] } } : State).admits
      receiving.bufAddr .write = false := by decide
theorem witness_FillFrame :
    exec .fill receiving = .next (after (exec .fill receiving)) ∧
    receiving.seq = .dataRecv .buffer ∧ 0x1001#32 ≠ receiving.bufAddr ∧
    exec .fill (at' .idle) = .next (after (exec .fill (at' .idle))) ∧
    (at' .idle).seq ≠ .dataRecv .buffer :=
  ⟨rfl, rfl, by decide, rfl, by decide⟩
/-- The first byte, and the last byte of a block at the top of the address space. -/
theorem witness_ReceivedByteIsStored :
    (receiving.seq = .dataRecv .buffer ∧ receiving.mem.wf = true ∧
      receiving.admits receiving.bufAddr .write = true ∧
      racing receiving.race.hostWrote receiving.bufAddr = []) ∧
    (let s := { transfer 2#4 (.dataRecv .buffer) 512#32 0xFFFFFE00#32 with idx := 511 }
     s.seq = .dataRecv .buffer ∧ s.mem.wf = true ∧ s.admits s.bufAddr .write = true ∧
      racing s.race.hostWrote s.bufAddr = []) := by decide
theorem witness_PayloadAndCsdBytes :
    (∀ k : Fin 4, (State.withCard (at' (.payload .ocr k)) [0x40#8]).env.card = 0x40#8 :: [] ∧
      (State.withCard (at' (.payload .ocr k)) [0x40#8]).seq = .payload .ocr k ∧
      (State.withCard (at' (.payload .echo k)) [0x40#8]).seq = .payload .echo k) ∧
    (∀ i ∈ [14, 15], let s := { State.withCard (at' (.dataRecv .csd)) [0x40#8] with idx := i }
     s.env.card = 0x40#8 :: [] ∧ s.seq = .dataRecv .csd ∧ s.idx < 16) :=
  ⟨fun _ => ⟨rfl, rfl, rfl⟩, by decide⟩
theorem witness_R1RecogniseEndsThePoll : (at' (.r1Test .cmd0)).seq = .r1Test .cmd0 := rfl
theorem witness_DataResponseTests :
    (at' .respPoll).coreNext ∧ (at' .respPoll).seq = .respPoll ∧ (at' .respTest).coreNext ∧
    (at' .respTest).seq = .respTest := ⟨at_coreNext _, rfl, at_coreNext _, rfl⟩
theorem witness_CardReadyEndsTheWait :
    (at' (.cmdReady .cmd0 0#32)).seq = .cmdReady .cmd0 0#32 ∧ (at' .wrReady).seq = .wrReady :=
  ⟨rfl, rfl⟩
theorem witness_InitBringsUpTheBus :
    (∀ q, (at' q).coreNext ∧ (at' q).seq = q) ∧ 10 ≤ (at' .initDeselect).params.nPowerupBytes :=
  ⟨fun _ => ⟨at_coreNext _, rfl⟩, by decide⟩
theorem witness_ResetAndInterfaceVerdicts :
    (∀ q, (at' q).coreNext ∧ (at' q).seq = q) ∧ (0xFB#8 : Byte).getLsbD 2 = false ∧
    (∀ r : Byte, CmdResult.timeout = .resp r → r.getLsbD 2 = true) ∧
    (∀ r : Byte, CmdResult.resp 0x04#8 = .resp r → r.getLsbD 2 = true) :=
  ⟨fun _ => ⟨at_coreNext _, rfl⟩, by decide, fun _ h => (nomatch h), fun _ h => by cases h; decide⟩
/-- The control points of the remaining statements about one step of the core: each is the `seq` of a
state with the core's turn next. -/
theorem witness_points : ∀ q ∈ [Seq.got .cmd55 .timeout, .got .cmd41 (.resp 0x01#8), .delayT0, .delayTest,
    .got .cmd58 .timeout, .ocrTest, .got .cmd16 .timeout, .endDeselect .initOk, .endPad .initOk,
    .initRaise, .initDone, .endPad (.initFail .noCard), .initFailed .noCard, .fin .ok,
    .got .cmd17 .timeout, .got .cmd18 (.resp 0x01#8), .got .cmd24 (.resp 0x7F#8), .got .cmd25 (.resp 0x00#8),
    .got .cmd17 (.resp 0x00#8), .crcRecv .buffer true, .got .cmd12 .timeout, .got .cmd9 .timeout,
    .crcRecv .csd true, .endPad (.count 0#33), .countWrite 0#33, .endPad (.blockIo .ok), .crcHi, .crcLo,
    .idle], (at' q).coreNext ∧ (at' q).seq = q := fun _ _ => ⟨at_coreNext _, rfl⟩
theorem witness_Acmd41Loop :
    (at' (.got .cmd41 .timeout)).coreNext ∧ (at' (.got .cmd41 .timeout)).seq = .got .cmd41 .timeout ∧
    (at' .delayTest).coreNext ∧ (at' .delayTest).seq = .delayTest := ⟨at_coreNext _, rfl, at_coreNext _, rfl⟩
theorem witness_OcrAndBlockLength :
    (at' .ocrTest).coreNext ∧ (at' .ocrTest).seq = .ocrTest ∧
    (at' (.got .cmd58 .timeout)).seq = .got .cmd58 .timeout ∧
    (at' (.got .cmd16 .timeout)).seq = .got .cmd16 .timeout := ⟨at_coreNext _, rfl, rfl, rfl⟩
theorem witness_InitEnds :
    (at' .initRaise).coreNext ∧ (at' .initRaise).seq = .initRaise ∧
    (at' (.initFailed .noCard)).seq = .initFailed .noCard := ⟨at_coreNext _, rfl, rfl⟩
theorem witness_BlockCommandVerdicts :
    (at' (.got .cmd17 .timeout)).coreNext ∧ (at' (.got .cmd17 .timeout)).seq = .got .cmd17 .timeout ∧
    (0x7F#8 : Byte) ≠ 0x00#8 ∧ (at' (.got .cmd18 (.resp 0x7F#8))).seq = .got .cmd18 (.resp 0x7F#8) ∧
    (at' (.got .cmd25 (.resp 0x01#8))).seq = .got .cmd25 (.resp 0x01#8) ∧
    (at' (.got .cmd24 (.resp 0x00#8))).seq = .got .cmd24 (.resp 0x00#8) :=
  ⟨at_coreNext _, rfl, by decide, rfl, rfl, rfl⟩
theorem witness_ReceivedBlockIsFollowed :
    (∀ d, (at' (.crcRecv d false)).coreNext ∧ (at' (.crcRecv d false)).seq = .crcRecv d false) ∧
    (let s := transfer 2#4 (.crcRecv .buffer true) 512#32 0#32
     s.coreNext ∧ s.seq = .crcRecv .buffer true ∧ s.opLatch.len.toNat / 512 ≤ 1) ∧
    (let s := transfer 2#4 (.crcRecv .buffer true) 1024#32 0#32
     s.coreNext ∧ s.seq = .crcRecv .buffer true ∧ s.blk.toNat + 1 < s.opLatch.len.toNat / 512) ∧
    (let s := { transfer 2#4 (.crcRecv .buffer true) 1024#32 0#32 with blk := 1#32 }
     s.coreNext ∧ s.seq = .crcRecv .buffer true ∧ ¬s.opLatch.len.toNat / 512 ≤ 1 ∧
       ¬s.blk.toNat + 1 < s.opLatch.len.toNat / 512) ∧
    ((at' (.got .cmd12 .timeout)).coreNext ∧ (at' (.got .cmd12 .timeout)).seq = .got .cmd12 .timeout) :=
  ⟨fun _ => ⟨at_coreNext _, rfl⟩, ⟨transfer_coreNext _ _ _ _, rfl, by decide⟩,
    ⟨transfer_coreNext _ _ _ _, rfl, by decide⟩, ⟨⟨rfl, rfl⟩, rfl, by decide, by decide⟩, at_coreNext _, rfl⟩
theorem witness_CapacityQueryEnds :
    (at' (.countWrite 0x100000000#33)).coreNext ∧
    (at' (.countWrite 0x100000000#33)).seq = .countWrite 0x100000000#33 ∧
    (at' (.got .cmd9 .timeout)).seq = .got .cmd9 .timeout := ⟨at_coreNext _, rfl, rfl⟩
theorem witness_EndAndFinish :
    (at' (.endDeselect (.blockIo .ok))).coreNext ∧
    (at' (.endDeselect (.blockIo .ok))).seq = .endDeselect (.blockIo .ok) ∧
    (at' (.fin .dataRejected)).seq = .fin .dataRejected := ⟨at_coreNext _, rfl, rfl⟩

/-- With the parameters of reset every host byte is admitted. -/
theorem admits_default (s : State) (h : s.params = Config.defaultParams) (a : Word) (k : AccessKind) :
    s.admits a k = true := by
  have := a.isLt
  cases k <;> simp [State.admits, h, Config.defaultParams, Region.allows] <;> omega

theorem witness_ReceivedBlockIsStored :
    let data : List Byte := List.replicate 512 0xA5#8
    let s := State.withCard (transfer 2#4 (.dataRecv .buffer) 512#32 0xFFFFFF00#32) data
    s.coreNext ∧ s.seq = .dataRecv .buffer ∧ s.idx = 0 ∧ s.mem.wf = true ∧ s.race.hostWrote = [] ∧
      data.length = 512 ∧ s.env.card = data ++ [] ∧ (∀ a ∈ s.blockAddrs, s.admits a .write = true) :=
  ⟨⟨rfl, rfl⟩, rfl, rfl, rfl, rfl, List.length_replicate .., (List.append_nil _).symm,
    fun a _ => admits_default _ rfl a _⟩
theorem witness_SentBlockIsTheBuffer :
    let s := transfer 3#4 .dataSend 512#32 0x2000#32
    s.coreNext ∧ s.seq = .dataSend ∧ s.idx = 0 ∧ s.crc16 = 0#16 ∧ s.race.hostWrote = [] ∧
      (∀ a ∈ s.blockAddrs, s.admits a .read = true) :=
  ⟨⟨rfl, rfl⟩, rfl, rfl, rfl, rfl,
    fun a _ => admits_default _ rfl a _⟩
theorem witness_CrcGoesOutHighByteFirst :
    (at' .crcHi).coreNext ∧ (at' .crcHi).seq = .crcHi ∧ (at' .crcLo).seq = .crcLo :=
  ⟨at_coreNext _, rfl, rfl⟩
/-- A READ_BLOCKS that has received the first of its two blocks' bytes: the host stored the second before, and
two of its loads wait for it. The last byte of the buffer is still to come; the address after it is no part. -/
theorem witness_RacesDrawOnlyRacingValues :
    let s := { transfer 2#4 (.dataRecv .buffer) 1024#32 0x1000#32 with
      idx := 1
      race := { done := 1, hostWrote := [(0x1001#32, 0x00#8)]
                coreWrote := [{ addr := 0x1000#32, old := 0x00#8, card := 0x00#8 }] }
      hostLoads := [{ addr := 0x1001#32, seen := 0x00#8, waiting := true },
                    { addr := 0x1002#32, seen := 0x00#8, waiting := true },
                    { addr := 0x1001#32, seen := 0x00#8, waiting := true }] }
    (s.mem.wf = true ∧ (0x1001#32, 0x00#8) ∈ s.race.hostWrote ∧
      s.coreStore 0x1001#32 0xAA#8 = .next (after (s.coreStore 0x1001#32 0xAA#8))) ∧
    (s.seq ≠ .idle ∧ s.opLatch.opc = 2#4 ∧ (0x1000#32 - s.opLatch.base).toNat < s.opLatch.len.toNat ∧
      (0x1000#32 - s.opLatch.base).toNat < s.race.done) ∧
    ((0x13FF#32 - s.opLatch.base).toNat < s.opLatch.len.toNat ∧
      s.race.done ≤ (0x13FF#32 - s.opLatch.base).toNat) ∧
    ¬(0x1400#32 - s.opLatch.base).toNat < s.opLatch.len.toNat ∧
    ¬(0x0FFF#32 - s.opLatch.base).toNat < s.opLatch.len.toNat ∧
    (let w := transfer 3#4 .dataSend 512#32 0x1000#32
     w.seq ≠ .idle ∧ w.opLatch.opc = 3#4 ∧ (0x1000#32 - w.opLatch.base).toNat < w.opLatch.len.toNat ∧
      w.race.done ≤ (0x1000#32 - w.opLatch.base).toNat) :=
  ⟨⟨rfl, by decide, rfl⟩, by decide, by decide, by decide, by decide, by decide⟩
theorem witness_AddressTranslation :
    addrOverflow .byte 0x7FFFFF#32 = false ∧ addrOverflow .byte 0x800000#32 = true := by decide
theorem witness_CsdDecodeIsExact :
    (0x7F#8 : Byte).toNat / 64 = 1 ∧ (0x3F#8 : Byte).toNat / 64 = 0 ∧ 2 ≤ (0x80#8 : Byte).toNat / 64 := by
  decide
theorem witness_FrameHasOneMeaning : decode (.frame [0x51#8, 0xFF#8, 0xFF#8, 0xFF#8, 0xFF#8, 0x7F#8]) =
    .ok (.cmd17 0xFFFFFFFF#32 0x3F#7) := test_decode_cmd17
theorem witness_StepRunsTheDecodedInstruction :
    fetch (at' .stopToken) = .run (.tx 0xFD#8) (at' .stopToken) ∧
    decode (.tx 0xFD#8) = .ok .tokenStopMultiWrite ∧
    ((op State.reset 0x1#32).resetIn = false ∧
      (op State.reset 0x1#32).env.turns = .hostWrite 0x00#32 .word 0x1#32 :: []) ∧
    ((at' (.issue .cmd0)).coreNext ∧ (at' (.issue .cmd0)).seq = .issue .cmd0 ∧
      decode (.frame (buildFrame (cmdIndex .cmd0) ((at' (.issue .cmd0)).cmdArg .cmd0)).toList) =
        .ok .cmd0) :=
  ⟨rfl, by decide, ⟨rfl, rfl⟩, at_coreNext _, rfl, by decide +kernel⟩
theorem witness_StepTakesTheTurn :
    ((State.withTurns State.reset [.hostWrite 0x04#32 .word 5#32]).env.turns =
        .hostWrite 0x04#32 .word 5#32 :: [] ∧ State.reset.resetIn = false ∧ 0x04#32 ≠ 0x00#32) ∧
    (State.withTurns State.reset [.hostRead 0x14#32 .word]).env.turns = .hostRead 0x14#32 .word :: [] ∧
    (State.withTurns State.reset [.memWrite 0#32 1#8]).env.turns = .memWrite 0#32 1#8 :: [] ∧
    (State.withTurns State.reset [.memRead 0#32]).env.turns = .memRead 0#32 :: [] ∧
    (let s := State.withTurns (at' .initEntry) [.core, .hostRead 0x14#32 .word]
     s.env.turns = .core :: [.hostRead 0x14#32 .word] ∧
       step (s.dropTurn []) = .next (after (step (s.dropTurn [])))) ∧
    (let s := State.withTurns { receiving with
       params := { Config.defaultParams with hostMemAdmit := [] } } [.core]
     s.env.turns = .core :: [] ∧
       step (s.dropTurn []) = .fault (.hostAccessRefused 0x1000#32 .write)) :=
  ⟨by decide, rfl, rfl, rfl, ⟨rfl, rfl⟩, rfl, rfl⟩
theorem witness_RegisterReads : (0x28#32 : Word).toNat % 4 = 0 ∧ 0x24 < (0x28#32 : Word).toNat ∧
    (0x05#32 : Word).toNat % 4 ≠ 0 := by decide
theorem witness_RegisterWrites : (0x14#32 : Word) ≠ 0x04#32 ∧ (0x14#32 : Word) ≠ 0x08#32 ∧
    (0x14#32 : Word) ≠ 0x0C#32 ∧ (0x14#32 : Word) ≠ 0x10#32 := by decide
theorem witness_IdleCoreWaits : State.reset.coreNext ∧ State.reset.seq = .idle := ⟨⟨rfl, rfl⟩, rfl⟩
theorem witness_ResetHoldsTheBlock :
    (let s := State.withTurns (at' .dataSend) [.resetPin true]
     s.env.turns = .resetPin true :: [] ∧ step s = .next (after (step s))) ∧
    (let s := (State.withTurns (at' .dataSend) [.core]).applyReset true
     s.resetIn = true ∧ s.applyReset true = s ∧ (∀ r, s.env.turns ≠ .resetPin false :: r) ∧
       step s = .next (after (step s))) :=
  ⟨⟨rfl, rfl⟩, rfl, rfl, fun _ h => (nomatch h), rfl⟩
theorem witness_StepAddsAtMostOneEvent :
    step (at' (.cmdSelect .cmd0 0#32)) = .next (after (step (at' (.cmdSelect .cmd0 0#32)))) ∧
    (after (step (at' (.cmdSelect .cmd0 0#32)))).trace = [.cs false] := ⟨rfl, rfl⟩
theorem witness_OnlyOwnersWriteTheSession :
    (let s := at' (.countWrite 5#33)
     step s = .next (after (step s)) ∧ (∀ level rest, s.env.turns ≠ .resetPin level :: rest) ∧
       opOf s.seq ≠ .init) ∧
    (let s := op { State.reset with blockCount := 77#33 } 0x4#32
     step s = .next (after (step s)) ∧ (∀ v, s.seq ≠ .countWrite v) ∧
       (after (step s)).blockCount ≠ s.blockCount) :=
  ⟨⟨rfl, fun _ _ h => (nomatch h), by decide⟩, rfl, fun _ h => (nomatch h), by decide⟩
theorem witness_OnlyNamedBytesOfMemoryChange :
    (step receiving = .next (after (step receiving)) ∧ receiving.seq = .dataRecv .buffer ∧
      0x1001#32 ≠ receiving.bufAddr ∧ ∀ b v rest, receiving.env.turns ≠ .memWrite b v :: rest) ∧
    (let s := State.withTurns State.reset [.memWrite 0x5#32 0x7#8]
     step s = .next (after (step s)) ∧ s.seq ≠ .dataRecv .buffer ∧ (0x6#32 : Word) ≠ 0x5#32) :=
  ⟨⟨rfl, rfl, by decide, fun _ _ _ h => (nomatch h)⟩, rfl, by decide, by decide⟩
theorem witness_StepStopsOnlyAtRefusedAccess :
    (let s := { receiving with params := { Config.defaultParams with hostMemAdmit := [] } }
     s.coreNext ∧ s.seq = .dataRecv .buffer ∧ s.admits s.bufAddr .write = false ∧
       step s = .fault (.hostAccessRefused 0x1000#32 .write)) ∧
    (let s := { transfer 3#4 .dataSend 512#32 0x1000#32 with
       params := { Config.defaultParams with hostMemAdmit := [] } }
     s.coreNext ∧ s.seq = .dataSend ∧ s.admits s.bufAddr .read = false ∧
       step s = .fault (.hostAccessRefused 0x1000#32 .read)) :=
  ⟨⟨⟨rfl, rfl⟩, rfl, rfl, rfl⟩, ⟨rfl, rfl⟩, rfl, rfl, rfl⟩
theorem witness_StepKeepsMemoryCanonical :
    receiving.mem.wf = true ∧ step receiving = .next (after (step receiving)) := ⟨rfl, rfl⟩
theorem witness_StepKeepsTheSession :
    (let s := { transfer 2#4 (.cmdSelect .cmd17 0#32) 512#32 0#32 with csN := true }
     s.SessionInv ∧ step s = .next (after (step s))) ∧
    (let s := op State.reset 0x1#32
     s.SessionInv ∧ step s = .next (after (step s))) :=
  ⟨⟨⟨by decide, by decide, fun _ => rfl, by decide, by decide, fun _ => rfl, by decide, by decide⟩, rfl⟩,
    ⟨by decide, by decide, fun _ => rfl, by decide, by decide, fun h => absurd rfl h, by decide,
      by decide⟩, rfl⟩
/-- Inside the second block of two, at its last byte. -/
theorem witness_StepKeepsTheTransfer :
    let s := { transfer 2#4 (.dataRecv .buffer) 1024#32 0x1000#32 with
      blk := 1#32, idx := 511, race := { done := 1023, hostWrote := [], coreWrote := [] } }
    s.TransferInv ∧ step s = .next (after (step s)) :=
  ⟨⟨fun _ => by decide, fun _ => by decide, by decide, by decide, by decide⟩, rfl⟩

end Sys2Proof.Machine.Tests
end

section
/-! SUPPORT. What a turn of the schedule can do, said once (`turnStep_cases`), and how a run begins. -/

namespace Sys2Proof.Machine

/-- What a turn of the host changes that is no OP write: the four writable registers, what the host read, the
host memory, the races and the host's loads, and the draws (R280, R283, R94). -/
def HostChanges (s t : State) : Prop :=
  ∃ bn len base ws rd mem race loads cs n, t = { s.setDraws cs n with
    blockNumber := bn, length := len, bufBase := base, workSpeed := ws, hostRd := rd
    mem := mem, race := race, hostLoads := loads }

/-- A turn that does nothing is one such turn. -/
theorem HostChanges.refl (s : State) : HostChanges s s :=
  ⟨_, _, _, _, _, _, _, _, s.env.choices, s.env.choicesDrawn, rfl⟩

/-- A register write but OP's changes the writable registers only (R280). -/
theorem State.hostWriteReg_changes (s : State) (off : Word) (width : AccessWidth) (w : Word) :
    HostChanges s (s.hostWriteReg off width w) := by
  obtain ⟨bn, len, base, ws, hw⟩ := s.hostWriteReg_spec off width w
  exact ⟨bn, len, base, ws, _, _, _, _, s.env.choices, s.env.choicesDrawn, hw⟩

/-- A register read changes what the host read only (R283). -/
theorem State.hostReadReg_changes (s : State) (off : Word) (width : AccessWidth) :
    HostChanges s (s.hostReadReg off width) := by
  obtain ⟨rd, hrd⟩ := s.hostReadReg_spec off width
  exact ⟨_, _, _, _, rd, _, _, _, s.env.choices, s.env.choicesDrawn, hrd⟩

/-- The host's store changes the memory, the races and the draws only (R94, R345). -/
theorem State.hostStore_changes (s : State) (a : Word) (v : Byte) :
    HostChanges s (s.hostStore a v) := by
  obtain ⟨b, races, cs, n, hstore⟩ := s.hostStore_spec a v
  exact ⟨_, _, _, _, _, _, _, _, cs, n, hstore⟩

/-- The host's load changes the record of loads and the draws only (R94). -/
theorem State.hostLoad_changes (s : State) (a : Word) : HostChanges s (s.hostLoad a) := by
  obtain ⟨l, cs, n, hload⟩ := s.hostLoad_spec a
  exact ⟨_, _, _, _, _, _, _, _, cs, n, hload⟩

/-- A turn that answers is the core's step, a reset, an OP write, or another access of the host. -/
theorem turnStep_cases {s t : State} {turn : Turn} (h : turnStep s turn = .next t) :
    (turn = .core ∧ coreStep s = .next t) ∨
      (∃ level, turn = .resetPin level ∧ t = s.applyReset level) ∨
      (∃ w, exec (decodeOp w) s = .next t) ∨ HostChanges s t := by
  cases turn <;> simp only [turnStep] at h
  case core =>
    split at h
    · cases h; exact .inr (.inr (.inr (.refl s)))
    · exact .inl ⟨rfl, h⟩
  case hostWrite off width w =>
    split at h
    · cases h; exact .inr (.inr (.inr (.refl s)))
    · split at h
      · exact .inr (.inr (.inl ⟨w, h⟩))
      · cases h; exact .inr (.inr (.inr (s.hostWriteReg_changes off width w)))
  case hostRead off width => cases h; exact .inr (.inr (.inr (s.hostReadReg_changes off width)))
  case memWrite a v => cases h; exact .inr (.inr (.inr (s.hostStore_changes a v)))
  case memRead a => cases h; exact .inr (.inr (.inr (s.hostLoad_changes a)))
  case resetPin level => cases h; exact .inr (.inl ⟨level, rfl, rfl⟩)

/-- A run of one step and more is a step that answers, and the rest of the run from there. -/
theorem run_succ_next {k : Nat} {s t : State}
    (h : Host.Core.run Sys2Proof.core (k + 1) s = .next t) :
    ∃ u, step s = .next u ∧ Host.Core.run Sys2Proof.core k u = .next t := by
  have hcore : Sys2Proof.core.step s = step s := rfl
  simp only [Host.Core.run, hcore] at h
  split at h
  · exact ⟨_, ‹_›, h⟩
  · cases h
  · cases h

/-- A block that is not BUSY is IDLE (R37). -/
theorem State.eq_idle_of_not_busy {s : State} (h : ¬s.busy = true) : s.seq = .idle := by
  simpa [State.busy] using h

end Sys2Proof.Machine
end

section
/-! PROOFS. Every step keeps the session invariant. The core's steps are followed control point by control
point: `Running q` is the invariant at the control point `q` of an operation, and `{ r with .. }` names the
parts a step has to answer for, the rest going over as it is. -/

namespace Sys2Proof.Machine

/-- The session invariant of an operation at its control point `q`: `SessionInv` with its two premises "while
BUSY" met, and with `q` named apart from the state. A step from `q` to `q'` then hands on as it is every part
that asks the same of both. -/
structure State.Running (s : State) (q : Seq) : Prop where
  phase : phaseFits q s.phase = true
  select : selectFits q s.csN = true
  result : s.result = .ok
  speed : atInitSpeed q = true → s.busSpeed = s.params.fInitHz
  opcode : opcFits (opOf q) s.opLatch.opc = true
  lastOp : s.lastOp = s.opLatch.opc
  tries : triesFit q s.r1Tries = true
  attempts : attemptsFit q s.acmd41Iter = true

/-- At a control point other than IDLE the session invariant is `Running` there. -/
theorem State.SessionInv.running {s : State} {q : Seq} (h : s.SessionInv) (hq : s.seq = q)
    (hbusy : q ≠ .idle) : s.Running q := by
  subst hq
  exact { h with result := h.result hbusy, lastOp := h.lastOp hbusy }

/-- `Running` at a state's own control point is the session invariant. -/
theorem State.SessionInv.of_running {s : State} (r : s.Running s.seq) : s.SessionInv :=
  { r with result := fun _ => r.result, lastOp := fun _ => r.lastOp }

/-- The registers the session invariant speaks of beside `seq`, F_INIT_HZ with them. -/
def State.sessionPart (s : State) :
    Phase × Bool × ResultCode × Word × Word × BitVec 4 × BitVec 4 × Nat × Nat :=
  (s.phase, s.csN, s.result, s.busSpeed, s.params.fInitHz, s.opLatch.opc, s.lastOp, s.r1Tries,
    s.acmd41Iter)

/-- What writes none of these registers keeps `Running`. -/
theorem State.Running.congr {s t : State} {q : Seq} (r : s.Running q)
    (h : t.sessionPart = s.sessionPart) : t.Running q := by
  simp only [State.sessionPart, Prod.mk.injEq] at h
  obtain ⟨hphase, hcs, hresult, hspeed, hinit, hopc, hlast, htries, hiter⟩ := h
  constructor <;> simp only [hphase, hcs, hresult, hspeed, hinit, hopc, hlast, htries, hiter]
  exacts [r.phase, r.select, r.result, r.speed, r.opcode, r.lastOp, r.tries, r.attempts]

/-- An exchange writes none of them (R142). -/
theorem State.Running.exchange1 {s : State} {q : Seq} (r : s.Running q) (b : Byte) :
    (s.exchange1 b).Running q :=
  r.congr (by simp [State.sessionPart])

/-- An exchange keeps the invariant at IDLE too (R142). -/
theorem State.SessionInv.exchange1 {s : State} (h : s.SessionInv) (b : Byte) :
    (s.exchange1 b).SessionInv := by
  obtain ⟨hphase, hcs, hresult, hspeed, hopc, hlast, htries, hiter⟩ := h
  constructor <;> simpa

/-- A clock read writes none of them (R60). -/
theorem State.Running.readClock {s : State} {q : Seq} (r : s.Running q) : s.readClock.Running q :=
  r.congr (by simp [State.sessionPart])

/-- `t0` is none of them (R53). -/
theorem State.Running.sampleT0 {s : State} {q : Seq} (r : s.Running q) : s.sampleT0.Running q :=
  r.congr (by simp [State.sessionPart])

/-- A store to the host buffer writes none of them (R151). -/
theorem State.Running.coreStore {s t : State} {q : Seq} {a : Word} {v : Byte} (r : s.Running q)
    (h : s.coreStore a v = .next t) : t.Running q := by
  obtain ⟨_, b, loads, cs, n, _, rfl, _⟩ := State.coreStore_next h
  exact r.congr (by simp [State.sessionPart, State.stored])

/-- A load from the host buffer writes none of them (R225). -/
theorem State.Running.coreLoad {s : State} {q : Seq} (r : s.Running q) (a : Word) :
    (s.coreLoad a).2.Running q := by
  obtain ⟨_, cs, n, hload⟩ := s.coreLoad_spec a
  exact r.congr (by simp [State.sessionPart, hload])

/-- The end of a block operation may hold READ_BLOCKS' opcode (R46). -/
theorem opcFits_blockIo_of_read {opc : BitVec 4} (h : opcFits .read opc = true) :
    opcFits .blockIo opc = true := by simp_all [opcFits]

/-- The end of a block operation may hold WRITE_BLOCKS' opcode (R46). -/
theorem opcFits_blockIo_of_write {opc : BitVec 4} (h : opcFits .write opc = true) :
    opcFits .blockIo opc = true := by simp_all [opcFits]

/-- Step 4's budget holds at every control point (R194). -/
theorem attemptsFit_le {q : Seq} {n : Nat} (h : attemptsFit q n = true) :
    decide (n ≤ Config.acmd41Budget) = true := by
  unfold attemptsFit at h
  simp only [decide_eq_true_eq]
  repeat' split at h
  all_goals simp only [decide_eq_true_eq] at h; omega

/-- A new attempt keeps the budget of step 4 where it is not used up (R194). -/
theorem State.Running.startAttempt {s : State} (r : s.Running (.issue .cmd55))
    (hlt : s.acmd41Iter < Config.acmd41Budget) : s.startAttempt.SessionInv :=
  .of_running { r with attempts := by simpa [attemptsFit, cmdOf, State.startAttempt] using hlt }

/-- The first attempt: before step 4 the count is 0 (R52, R193). -/
theorem State.Running.firstAttempt {s : State} {res : CmdResult} (r : s.Running (.got .cmd8 res)) :
    s.startAttempt.SessionInv := by
  have hzero : s.acmd41Iter = 0 := by simpa [attemptsFit, cmdOf] using r.attempts
  have hissue : s.Running (.issue .cmd55) :=
    { r with select := rfl, attempts := by simp [attemptsFit, cmdOf, hzero] }
  exact hissue.startAttempt (by rw [hzero]; decide)

/-- After the echo's last byte the first attempt begins; every other payload byte goes on (R193, R195). -/
theorem State.Running.payloadByte {s : State} {p : Payload} {k : Fin 4}
    (r : s.Running (.payload p k)) : (s.payloadByte p k).SessionInv := by
  cases p <;> simp only [State.payloadByte] <;> split
  case echo.isFalse => exact State.Running.firstAttempt (res := .timeout) { r with }
  all_goals exact .of_running { r with }

/-- A received block goes on with its next byte or its CRC (R224). -/
theorem State.Running.nextDataByte {s : State} {d : Dest} (r : s.Running (.dataRecv d)) :
    (s.nextDataByte d).SessionInv := by
  unfold State.nextDataByte
  split <;> exact .of_running { r with }

/-- A received data byte goes to the host buffer or to `csd` (R151, R260). -/
theorem State.Running.dataByte {s t : State} {d : Dest} (r : s.Running (.dataRecv d))
    (h : s.dataByte d = .next t) : t.SessionInv := by
  cases d <;> simp only [State.dataByte] at h
  case csd => cases h; exact State.Running.nextDataByte { r with }
  case buffer =>
    split at h <;> cases h
    next hstore => exact (r.coreStore hstore).nextDataByte

/-- A received block is followed by END, the next block or CMD12 (R229, R230, R260). -/
theorem State.Running.blockEnd {s : State} {d : Dest} (r : s.Running (.crcRecv d true)) :
    (s.blockEnd d).SessionInv := by
  cases d <;> simp only [State.blockEnd, State.blockReceived]
  case csd => exact .of_running { r with }
  case buffer =>
    split
    · exact .of_running { r with opcode := opcFits_blockIo_of_read r.opcode }
    · split
      · exact .of_running { r with }
      · exact .of_running { r with select := rfl }

/-- A READY session fits `finish` (R42, R317). -/
theorem phaseFits_fin_of_ready {p : Phase} {code : ResultCode} (h : decide (p = .ready) = true) :
    phaseFits (.fin code) p = true := by
  rw [of_decide_eq_true h]; rfl

/-- What follows END: INIT's last steps, the count registers, or `finish` (R197, R198, R229, R260). -/
theorem State.Running.afterEnd {s : State} {k : Ending} (r : s.Running (.endPad k)) :
    (s.afterEnd k).SessionInv := by
  cases k <;> simp only [State.afterEnd]
  case initOk => exact .of_running { r with }
  case initFail => exact .of_running { r with speed := nofun }
  case blockIo => exact .of_running { r with phase := phaseFits_fin_of_ready r.phase, opcode := rfl }
  case count => exact .of_running { r with }

/-- What follows a fill byte keeps the session invariant. -/
theorem State.SessionInv.afterFill {s t : State} (h : s.SessionInv) (hs : s.afterFill = .next t) :
    t.SessionInv := by
  unfold State.afterFill at hs
  cases hq : s.seq <;> simp only [hq] at hs
  case dataRecv d => exact (h.running hq nofun).dataByte hs
  case crcRecv d second =>
    have r := h.running hq nofun
    cases second <;> cases hs
    · exact .of_running { r with }
    · exact r.blockEnd
  case payload p k => cases hs; exact (h.running hq nofun).payloadByte
  case endPad k => cases hs; exact (h.running hq nofun).afterEnd
  case initFill left =>
    have r := h.running hq nofun
    cases hs
    split
    · exact .of_running { r with select := rfl }
    · exact .of_running { r with }
  case r1Poll c =>
    have r := h.running hq nofun
    have htries : s.r1Tries < Config.r1PollBudget := by simpa [triesFit] using r.tries
    cases hs
    exact .of_running { r with tries := by simpa [triesFit] using htries }
  case cmdPad | cmdPoll | tokPoll | respPoll | wrPoll =>
    have r := h.running hq nofun
    cases hs
    exact .of_running { r with }
  all_goals cases hs; exact h

/-- The result of CMD17 or CMD18: the first block, or END (R229, R230). -/
theorem State.Running.gotRead {s : State} {res : CmdResult} (r : s.Running (.tokT0 .buffer)) :
    (s.gotRead res).SessionInv := by
  have hopc := opcFits_blockIo_of_read r.opcode
  cases res <;> simp only [State.gotRead]
  case timeout => exact .of_running { r with opcode := hopc }
  case resp =>
    split
    · exact .of_running { r with }
    · exact .of_running { r with opcode := hopc }

/-- The result of CMD24 or CMD25: the first block, or END (R231, R232). -/
theorem State.Running.gotWrite {s : State} {res : CmdResult} (r : s.Running .tokenOut) :
    (s.gotWrite res).SessionInv := by
  have hopc := opcFits_blockIo_of_write r.opcode
  cases res <;> simp only [State.gotWrite]
  case timeout => exact .of_running { r with opcode := hopc }
  case resp =>
    split
    · exact .of_running { r with }
    · exact .of_running { r with opcode := hopc }

/-- The result of CMD0: CMD8, or END with the count still 0 (R192). -/
theorem State.Running.gotCmd0 {s : State} {res : CmdResult} (r : s.Running (.got .cmd0 res)) :
    (s.gotCmd0 res).SessionInv := by
  have hfail : (s.initFail .noCard).SessionInv :=
    .of_running { r with attempts := attemptsFit_le r.attempts }
  cases res <;> simp only [State.gotCmd0]
  case timeout => exact hfail
  case resp =>
    split
    · exact .of_running { r with select := rfl }
    · exact hfail

/-- What each caller does with its command's result keeps the session invariant (R12). -/
theorem State.Running.gotResult {s : State} {c : Cmd} {res : CmdResult}
    (r : s.Running (.got c res)) : (s.gotResult c res).SessionInv := by
  cases c <;> simp only [State.gotResult]
  case cmd0 => exact r.gotCmd0
  case cmd17 | cmd18 => exact State.Running.gotRead { r with }
  case cmd24 | cmd25 => exact State.Running.gotWrite { r with }
  case cmd55 => exact .of_running { r with select := rfl }
  case cmd12 => exact .of_running { r with opcode := opcFits_blockIo_of_read r.opcode }
  case cmd8 =>
    cases res <;> simp only [State.gotCmd8]
    case timeout => exact r.firstAttempt
    case resp =>
      split
      · exact r.firstAttempt
      · exact .of_running { r with }
  case cmd41 =>
    unfold State.gotCmd41
    split
    · exact .of_running { r with select := rfl }
    · split
      next hlt => exact .of_running { r with attempts := decide_eq_true hlt }
      next => exact .of_running { r with }
  case cmd58 =>
    unfold State.gotCmd58
    split
    · exact .of_running { r with }
    · exact .of_running { r with select := rfl }
  case cmd16 => unfold State.gotCmd16; split <;> exact .of_running { r with }
  case cmd9 => unfold State.gotCmd9; split <;> exact .of_running { r with }

/-- `finish` leaves what fits IDLE; RESULT and LAST_OP are free there (R317). -/
theorem State.Running.finish {s : State} {code : ResultCode} (r : s.Running (.fin code)) :
    (s.finish code).SessionInv :=
  { r with
    result := fun hbusy => absurd rfl hbusy, speed := nofun, opcode := rfl
    lastOp := fun hbusy => absurd rfl hbusy }

/-- A data byte of a written block goes on with the next one or the CRC (R225). -/
theorem State.Running.sendDataByte {s t : State} (r : s.Running .dataSend)
    (h : s.sendDataByte = .next t) : t.SessionInv := by
  unfold State.sendDataByte at h
  split at h
  case isFalse => cases h
  case isTrue =>
    have rload := r.coreLoad s.bufAddr
    rcases hload : s.coreLoad s.bufAddr with ⟨b, s'⟩
    simp only [hload] at h rload
    have rcrc : State.Running { s' with crc16 := crc16Step s'.crc16 b } .dataSend := { rload with }
    have rsent := rcrc.exchange1 b
    cases h
    split <;> exact .of_running { rsent with }

/-- A frame byte goes on with the next one, or with the R1 poll at 0 (R163, R165). -/
theorem State.Running.sendFrameByte {s : State} {c : Cmd} {i : Fin 6}
    (r : s.Running (.cmdSend c i)) : (s.sendFrameByte c i).SessionInv := by
  have r' := r.exchange1 s.cmdFrame[i.val]
  unfold State.sendFrameByte
  simp only
  split
  · exact .of_running { r' with }
  · exact .of_running { r' with tries := rfl }

/-- Another R1 poll only below the budget (R165). -/
theorem State.Running.noR1 {s : State} {c : Cmd} (r : s.Running (.r1Test c))
    (hq : s.seq = .r1Test c) : s.noR1.SessionInv := by
  simp only [State.noR1, hq]
  split
  · next hlt => exact .of_running { r with tries := decide_eq_true hlt }
  · exact .of_running { r with }

/-- Another attempt after the delay only below the budget (R150, R194). -/
theorem State.Running.delayStep {s : State} (r : s.Running .delayTest) : s.delayStep.SessionInv := by
  have r' := r.readClock
  unfold State.delayStep
  simp only
  split
  · exact State.Running.startAttempt { r' with select := rfl, attempts := attemptsFit_le r'.attempts }
      (of_decide_eq_true r'.attempts)
  · exact .of_running { r' with }

/-- CMD16 or step 7's END (R196, R197). -/
theorem State.Running.step6 {s : State} (r : s.Running .ocrTest) : s.step6.SessionInv := by
  unfold State.step6
  split
  · exact .of_running { r with select := rfl }
  · exact .of_running { r with }

/-- Another token poll, or END once the time is up (R224, R260). -/
theorem State.Running.noToken {s : State} {d : Dest} (r : s.Running (.tokTest d))
    (hq : s.seq = .tokTest d) : s.noToken.SessionInv := by
  have r' := r.readClock
  simp only [State.noToken, hq]
  split
  · cases d
    · exact .of_running { r' with opcode := opcFits_blockIo_of_read r'.opcode }
    · exact .of_running { r' with }
  · exact .of_running { r' with }

/-- A rejected block ends the write (R225). -/
theorem State.Running.rejectedBlock {s : State} (r : s.Running .respTest)
    (hq : s.seq = .respTest) : s.rejectedBlock.SessionInv := by
  simp only [State.rejectedBlock, hq]
  exact .of_running { r with opcode := opcFits_blockIo_of_write r.opcode }

/-- A sent block is followed by END, the next block or the stop token (R231, R232). -/
theorem State.Running.blockSent {s : State} (r : s.Running .wrReady) : s.blockSent.SessionInv := by
  unfold State.blockSent
  split
  · exact .of_running { r with opcode := opcFits_blockIo_of_write r.opcode }
  · split <;> exact .of_running { r with }

/-- The ready wait after a block: another poll, or END once the time is up (R162, R225). -/
theorem State.Running.notReadyBlock {s : State} (r : s.Running .wrReady) (hq : s.seq = .wrReady) :
    s.notReady.SessionInv := by
  have r' := r.readClock
  simp only [State.notReady, hq]
  split
  · exact .of_running { r' with opcode := opcFits_blockIo_of_write r'.opcode }
  · exact .of_running { r' with }

/-- The ready wait before a command: another poll, or `Timeout` once the time is up (R162, R163). -/
theorem State.Running.notReadyCmd {s : State} {c : Cmd} {arg : Word}
    (r : s.Running (.cmdReady c arg)) (hq : s.seq = .cmdReady c arg) : s.notReady.SessionInv := by
  have r' := r.readClock
  simp only [State.notReady, hq]
  split <;> exact .of_running { r' with }

/-- The core's step keeps the session invariant, control point by control point. -/
theorem State.SessionInv.after_coreStep {s t : State} (h : s.SessionInv) (hs : coreStep s = .next t) :
    t.SessionInv := by
  unfold coreStep at hs
  cases hq : s.seq <;> simp only [hq, micro] at hs
  case idle => cases hs; exact h
  all_goals have r := h.running hq nofun
  case initFill | cmdPad | cmdPoll | r1Poll | payload | tokPoll | dataRecv | crcRecv | respPoll
      | wrPoll | endPad =>
    exact State.SessionInv.afterFill (h.exchange1 _) hs
  case dataSend => exact r.sendDataByte hs
  all_goals cases hs
  case initEntry =>
    exact .of_running { r with phase := rfl, speed := nofun, attempts := rfl }
  case initSpeed => exact .of_running { r with speed := fun _ => rfl }
  case initDeselect =>
    split <;> exact .of_running { r with select := rfl }
  case issue | cmdSelect | endDeselect => exact .of_running { r with select := rfl }
  case cmdT0 | tokT0 | wrT0 | delayT0 => exact .of_running { r.sampleT0 with }
  case initRaise => exact .of_running { r with speed := nofun }
  case initDone | initFailed =>
    exact .of_running { r with phase := rfl, speed := nofun, opcode := rfl }
  case countWrite =>
    exact .of_running { r with phase := phaseFits_fin_of_ready r.phase, opcode := rfl }
  case fin => exact r.finish
  case got => exact r.gotResult
  case cmdReady c arg =>
    split
    · exact .of_running { r with }
    · exact r.notReadyCmd hq
  case cmdFrame c arg => exact .of_running { r with }
  case cmdSend c i => exact r.sendFrameByte
  case r1Test c =>
    split
    · exact r.noR1 hq
    · exact .of_running { r with }
  case delayTest => exact r.delayStep
  case ocrTest => exact State.Running.step6 { r with }
  case tokTest d =>
    split
    · exact .of_running { r with }
    · exact r.noToken hq
  case tokenOut =>
    have r' := r.exchange1 (if s.nBlocks ≤ 1 then Config.tokenStartBlock
      else Config.tokenStartMultiWrite)
    simp only [State.tokenSent, State.exchange1_seq, hq]
    exact .of_running { r' with }
  case crcHi => exact .of_running { r.exchange1 (s.crc16.extractLsb' 8 8) with }
  case crcLo => exact .of_running { r.exchange1 (s.crc16.extractLsb' 0 8) with }
  case respTest =>
    split
    · exact .of_running { r with }
    · exact r.rejectedBlock hq
  case wrReady =>
    split
    · exact r.blockSent
    · exact r.notReadyBlock hq
  case stopToken =>
    have r' := r.exchange1 Config.tokenStopMultiWrite
    exact .of_running { r' with opcode := opcFits_blockIo_of_write r'.opcode }

/-- An operation ended by the dispatcher leaves the block IDLE, where RESULT and LAST_OP are free (R281). -/
theorem State.SessionInv.rejectOp {s : State} (h : s.SessionInv) (hidle : s.seq = .idle)
    (opc : BitVec 4) (code : ResultCode) : (s.rejectOp opc code).SessionInv :=
  { h with result := fun hbusy => absurd hidle hbusy, lastOp := fun hbusy => absurd hidle hbusy }

/-- What the session invariant says where no operation runs (R42, R147, R165, R194). -/
theorem State.SessionInv.at_idle {s : State} (h : s.SessionInv) (hidle : s.seq = .idle) :
    s.phase ≠ .initializing ∧ s.csN = true ∧ s.r1Tries ≤ Config.r1PollBudget ∧
      s.acmd41Iter ≤ Config.acmd41Budget := by
  obtain ⟨hphase, hcs, _, _, _, _, htries, hiter⟩ := h
  rw [hidle] at hphase hcs htries hiter
  exact ⟨of_decide_eq_true hphase, hcs, of_decide_eq_true htries, of_decide_eq_true hiter⟩

/-- INIT starts from what IDLE keeps (R190, R281). -/
theorem State.SessionInv.acceptInit {s : State} (h : s.SessionInv) (hidle : s.seq = .idle) :
    (s.acceptOp 1#4 .initEntry).SessionInv := by
  obtain ⟨hphase, hcs, htries, hiter⟩ := h.at_idle hidle
  exact .of_running
    { phase := decide_eq_true hphase, select := hcs, result := rfl, speed := nofun, opcode := rfl
      lastOp := rfl, tries := decide_eq_true htries, attempts := decide_eq_true hiter }

/-- An operation of a READY session starts with its command (R228, R260, R281). -/
theorem State.SessionInv.acceptCommand {s : State} {opc : BitVec 4} {c : Cmd} (h : s.SessionInv)
    (hidle : s.seq = .idle) (hready : s.phase = .ready) (hc : opOfCmd c ≠ .init)
    (hopc : opcFits (opOfCmd c) opc = true) : (s.acceptOp opc (.issue c)).SessionInv := by
  obtain ⟨_, _, htries, hiter⟩ := h.at_idle hidle
  have hphase : phaseFits (.issue c) s.phase = true := by
    rw [hready]
    cases c <;> simp_all [opOfCmd, phaseFits, opOf]
  have hattempts : attemptsFit (.issue c) s.acmd41Iter = true := by
    cases c <;> simp_all [opOfCmd, attemptsFit, cmdOf]
  exact .of_running
    { phase := hphase, select := rfl, result := rfl
      speed := fun hinit => absurd (of_decide_eq_true hinit) hc
      opcode := hopc, lastOp := rfl, tries := decide_eq_true htries, attempts := hattempts }

/-- The pre-checks pass only in a READY session (R282). -/
theorem State.preCheckBlocks_none {s : State} (h : s.preCheckBlocks = none) : s.phase = .ready := by
  unfold State.preCheckBlocks at h
  split at h
  · cases h
  · split at h
    · cases h
    · next hphase => exact not_not.mp hphase

/-- READ_BLOCKS and WRITE_BLOCKS, whichever command they start with (R228, R282). -/
theorem State.SessionInv.startBlocks {s : State} {opc : BitVec 4} {single multi : Cmd}
    (h : s.SessionInv) (hidle : s.seq = .idle)
    (hcmd : ∀ c ∈ [single, multi], opOfCmd c ≠ .init ∧ opcFits (opOfCmd c) opc = true) :
    (s.startBlocks opc single multi).SessionInv := by
  unfold State.startBlocks
  split
  · exact h.rejectOp hidle _ _
  · next hpass =>
    obtain ⟨hc, hopc⟩ := hcmd (if blocksIn s.length = 1 then single else multi) (by split <;> simp)
    exact h.acceptCommand hidle (State.preCheckBlocks_none hpass) hc hopc

/-- An operation the dispatcher takes up only while no other is in progress (R281). -/
theorem State.SessionInv.unless_busy {s u : State} (h : s.SessionInv)
    (hidle : s.seq = .idle → u.SessionInv) : (if s.busy then s else u).SessionInv := by
  split
  · exact h
  · next hbusy => exact hidle (State.eq_idle_of_not_busy hbusy)

/-- A reserved opcode (R286). -/
theorem State.SessionInv.illegalOp {s : State} (h : s.SessionInv) (opc : BitVec 4) :
    (s.illegalOp opc).SessionInv :=
  h.unless_busy fun hidle => h.rejectOp hidle opc .illegalOp

/-- BLOCK_COUNT: NOT_READY, or CMD9 (R260, R282). -/
theorem State.SessionInv.blockCount {s : State} (h : s.SessionInv) (hidle : s.seq = .idle) :
    (if s.phase ≠ .ready then { s.rejectOp 4#4 .notReady with blockCount := 0#33 }
      else s.acceptOp 4#4 (.issue .cmd9)).SessionInv := by
  split
  · exact { h.rejectOp hidle 4#4 .notReady with }
  · next hready => exact h.acceptCommand hidle (not_not.mp hready) (by decide) (by decide)

/-- An OP write keeps the session invariant (R281, R282). -/
theorem State.SessionInv.opWrite {s t : State} {w : Word} (h : s.SessionInv)
    (hs : exec (decodeOp w) s = .next t) : t.SessionInv := by
  rcases decodeOp_cases w with hw | hw | hw | hw | hw | hw | ⟨_, hw⟩ | ⟨_, hw⟩ <;> rw [hw] at hs <;>
    cases hs
  · exact h
  · exact h.unless_busy h.acceptInit
  · exact h.unless_busy fun hidle => h.startBlocks hidle (by decide)
  · exact h.unless_busy fun hidle => h.startBlocks hidle (by decide)
  · exact h.unless_busy h.blockCount
  · exact h.illegalOp _
  · exact h.illegalOp _
  · exact h.illegalOp _

/-- The reset values meet the session invariant (R340). -/
theorem State.applyReset_session (s : State) (level : Bool) : (s.applyReset level).SessionInv where
  phase := rfl
  select := rfl
  result := fun _ => rfl
  speed := nofun
  opcode := rfl
  lastOp := fun _ => rfl
  tries := rfl
  attempts := rfl

/-- The invariant does not speak of the schedule. -/
theorem State.SessionInv.dropTurn {s : State} (h : s.SessionInv) (rest : List Turn) :
    (s.dropTurn rest).SessionInv := { h with }

/-- The invariant speaks of nothing a host access but an OP write changes (R280, R283). -/
theorem State.SessionInv.hostChanges {s t : State} (h : s.SessionInv) (hst : HostChanges s t) :
    t.SessionInv := by
  obtain ⟨_, _, _, _, _, _, _, _, _, _, rfl⟩ := hst
  exact { h with }

/-- A listed turn keeps the session invariant, whoever's it is. -/
theorem State.SessionInv.after_turn {s t : State} {turn : Turn} (h : s.SessionInv)
    (hs : turnStep s turn = .next t) : t.SessionInv := by
  rcases turnStep_cases hs with ⟨_, hcore⟩ | ⟨level, _, rfl⟩ | ⟨_, hexec⟩ | hhost
  · exact h.after_coreStep hcore
  · exact s.applyReset_session level
  · exact h.opWrite hexec
  · exact h.hostChanges hhost

/-- Settles O58: every step is a listed turn, the core's turn, or nothing, and each keeps the invariant. -/
theorem stepKeepsTheSession : Obligations.StepKeepsTheSession := by
  unfold Obligations.StepKeepsTheSession
  intro s t h hs
  rcases step_cases s with ⟨turn, rest, _, hstep⟩ | ⟨_, hstep⟩ | ⟨_, _, hstep⟩ <;> rw [hstep] at hs
  · exact (h.dropTurn rest).after_turn hs
  · exact h.after_coreStep hs
  · cases hs; exact h

end Sys2Proof.Machine
end

section
/-! PROOFS. The clock over steps and runs: a run reads it some number of times in order, and the count outgrows
every bound as it is read. -/

namespace Sys2Proof.Machine

/-- A turn that is not the core's reads no clock (R60). -/
theorem turnStep_clockPart {s t : State} {turn : Turn} (hcore : turn ≠ .core)
    (hs : turnStep s turn = .next t) : t.clockPart = s.clockPart := by
  rcases turnStep_cases hs with ⟨hturn, _⟩ | ⟨level, _, rfl⟩ | ⟨w, hexec⟩ | hhost
  · exact absurd hturn hcore
  · rfl
  · obtain ⟨_, _, _, _, _, _, _, hspec, _⟩ := exec_decodeOp_spec s w
    rw [hspec] at hexec; cases hexec; rfl
  · obtain ⟨_, _, _, _, _, _, _, _, _, _, rfl⟩ := hhost
    rfl

/-- The clock's part after a read is a function of the clock's part before it. -/
theorem State.readClock_clockPart_congr {s t : State} (h : t.clockPart = s.clockPart) :
    t.readClock.clockPart = s.readClock.clockPart := by
  simp only [State.clockPart, Prod.mk.injEq] at h
  obtain ⟨hlist, hreads, hclock⟩ := h
  cases hin : s.env.clockIn with
  | nil =>
    simp [State.clockPart, State.readClock_free hin, State.readClock_free (hlist.trans hin), hlist,
      hreads, hclock]
  | cons d rest =>
    simp [State.clockPart, State.readClock_listed hin, State.readClock_listed (hlist.trans hin),
      hreads, hclock]

/-- A step reads the clock at most once (R60, R92). -/
theorem step_clockPart {s t : State} (hs : step s = .next t) :
    t.clockPart = s.clockPart ∨ t.clockPart = s.readClock.clockPart := by
  rcases step_cases s with ⟨turn, rest, _, hstep⟩ | ⟨_, hstep⟩ | ⟨_, _, hstep⟩ <;> rw [hstep] at hs
  · have hdrop : (s.dropTurn rest).clockPart = s.clockPart := rfl
    rw [← hdrop, ← State.readClock_clockPart_congr hdrop]
    by_cases hturn : turn = .core
    · subst hturn
      simp only [turnStep] at hs
      split at hs
      · cases hs; exact .inl rfl
      · exact coreStep_clockPart hs
    · exact .inl (turnStep_clockPart hturn hs)
  · exact coreStep_clockPart hs
  · cases hs; exact .inl rfl

/-- Equal clock's parts stay equal over as many clock reads. -/
theorem State.readClock_iterate_clockPart_congr {s t : State} (n : Nat)
    (h : t.clockPart = s.clockPart) :
    (State.readClock^[n] t).clockPart = (State.readClock^[n] s).clockPart := by
  induction n generalizing s t with
  | zero => exact h
  | succ n ih => exact ih (State.readClock_clockPart_congr h)

/-- The clock's part after a run is that after some number of clock reads. -/
theorem run_clockPart {k : Nat} {s t : State} (h : Host.Core.run Sys2Proof.core k s = .next t) :
    ∃ n, t.clockPart = (State.readClock^[n] s).clockPart := by
  induction k generalizing s with
  | zero => cases h; exact ⟨0, rfl⟩
  | succ k ih =>
    obtain ⟨u, hs, hrun⟩ := run_succ_next h
    obtain ⟨n, hn⟩ := ih hrun
    rcases step_clockPart hs with hu | hu
    · exact ⟨n, hn.trans (State.readClock_iterate_clockPart_congr n hu)⟩
    · exact ⟨n + 1, hn.trans (State.readClock_iterate_clockPart_congr n hu)⟩

/-- A clock read is counted. -/
@[simp] theorem State.readClock_clockReads (s : State) :
    s.readClock.env.clockReads = s.env.clockReads + 1 := by
  unfold State.readClock; split <;> rfl

/-- As many reads are counted as are made. -/
theorem State.readClock_iterate_clockReads (s : State) (n : Nat) :
    (State.readClock^[n] s).env.clockReads = s.env.clockReads + n := by
  induction n with
  | zero => rfl
  | succ n ih => rw [Function.iterate_succ_apply', State.readClock_clockReads, ih, Nat.add_assoc]

/-- More reads never take the count back (R60). -/
theorem State.readClock_iterate_clock_mono (s : State) :
    Monotone fun n => (State.readClock^[n] s).env.clock :=
  monotone_nat_of_le_succ fun n => by
    simp only [Function.iterate_succ_apply']
    exact State.readClock_clock _

/-- As many reads as growths are listed, or more, leave none listed. -/
theorem State.readClock_iterate_clockIn {s : State} {n : Nat} (h : s.env.clockIn.length ≤ n) :
    (State.readClock^[n] s).env.clockIn = [] := by
  induction n generalizing s with
  | zero => exact List.eq_nil_of_length_eq_zero (Nat.le_zero.mp h)
  | succ n ih =>
    refine ih ?_
    cases hin : s.env.clockIn with
    | nil => simp [State.readClock_free hin, hin]
    | cons d rest => simpa [State.readClock_listed hin, hin] using h

/-- From every state the count grows after some number of reads: once the listed growths are used up, the
free growth has no last one (R60). -/
theorem State.readClock_iterate_grows (s : State) :
    ∃ n, s.env.clock < (State.readClock^[n] s).env.clock := by
  obtain ⟨m, hm, hpos⟩ := Config.clockStep_grows (s.env.clockReads + s.env.clockIn.length)
  obtain ⟨n, rfl⟩ := Nat.exists_eq_add_of_le (show s.env.clockReads ≤ m by omega)
  have hnone : (State.readClock^[n] s).env.clockIn = [] :=
    State.readClock_iterate_clockIn (by omega)
  refine ⟨n + 1, ?_⟩
  calc s.env.clock
      ≤ (State.readClock^[n] s).env.clock := s.readClock_iterate_clock_mono (Nat.zero_le n)
    _ < (State.readClock^[n] s).env.clock + Config.clockStep (s.env.clockReads + n) := by omega
    _ = (State.readClock^[n + 1] s).env.clock := by
      rw [Function.iterate_succ_apply', State.readClock_free hnone]
      simp only [State.readClock_iterate_clockReads]

/-- From every state the count outgrows every bound (R60, R351). -/
theorem State.readClock_iterate_unbounded (s : State) (B : Nat) :
    ∃ n, s.env.clock + B ≤ (State.readClock^[n] s).env.clock := by
  induction B with
  | zero => exact ⟨0, Nat.le_refl _⟩
  | succ B ih =>
    obtain ⟨n, hn⟩ := ih
    obtain ⟨m, hm⟩ := (State.readClock^[n] s).readClock_iterate_grows
    refine ⟨m + n, ?_⟩
    rw [Function.iterate_add_apply]
    omega

/-- Settles O15: a step reads the clock at most once and a turn that is not the core's never; a run is some
number of reads in order, and these outgrow every bound. -/
theorem clockNeverDecreases : Obligations.ClockNeverDecreases := by
  unfold Obligations.ClockNeverDecreases
  refine ⟨fun s t hs => ⟨?_, fun turn rest hturns hcore => ?_⟩, fun s B => ?_⟩
  · rcases step_clockPart hs with h | h
    · exact (congrArg (·.2.2) h).ge
    · exact s.readClock_clock.trans (congrArg (·.2.2) h).ge
  · rw [step_turn hturns] at hs
    exact congrArg (·.2.2) (turnStep_clockPart hcore hs)
  · obtain ⟨reads, hreads⟩ := s.readClock_iterate_unbounded B
    refine ⟨reads, fun k t hrun hle => ?_⟩
    obtain ⟨n, hn⟩ := run_clockPart hrun
    simp only [State.clockPart, Prod.mk.injEq] at hn
    obtain ⟨_, hcount, hclock⟩ := hn
    have hn : reads ≤ n := by rw [hcount, State.readClock_iterate_clockReads] at hle; omega
    calc s.env.clock + B
        ≤ (State.readClock^[reads] s).env.clock := hreads
      _ ≤ (State.readClock^[n] s).env.clock := s.readClock_iterate_clock_mono hn
      _ = t.env.clock := hclock.symm

end Sys2Proof.Machine
end

section
/-! PROOFS. Who writes the session, the count registers and the parameters. -/

namespace Sys2Proof.Machine

/-- From `s` to `t` only their owners wrote the session and the count registers, and nothing the parameters. -/
structure OwnersWrite (s t : State) : Prop where
  params : t.params = s.params
  session : opOf s.seq ≠ .init →
    t.phase = s.phase ∧ t.blockScale = s.blockScale ∧ t.busSpeed = s.busSpeed
  count : (∀ v, s.seq ≠ .countWrite v) → t.blockCount ≠ s.blockCount →
    s.seq = .idle ∧ t.lastOp = 4#4 ∧ t.result = .notReady ∧ t.blockCount = 0#33

/-- What writes nothing is such a step. -/
theorem OwnersWrite.refl (s : State) : OwnersWrite s s where
  params := rfl
  session := fun _ => ⟨rfl, rfl, rfl⟩
  count := fun _ hne => absurd rfl hne

/-- A step of the core writes each at its own control points only (R42 to R44, R38). -/
theorem coreStep_ownersWrite {s t : State} (h : coreStep s = .next t) : OwnersWrite s t where
  params := (coreStep_frame h).params
  session := (coreStep_frame h).session
  count := fun hpoint hne => absurd ((coreStep_frame h).count hpoint) hne

/-- An OP write leaves the session, and writes the count registers only where it ends BLOCK_COUNT (R281). -/
theorem exec_decodeOp_ownersWrite {s t : State} {w : Word} (h : exec (decodeOp w) s = .next t) :
    OwnersWrite s t := by
  obtain ⟨_, _, _, _, _, _, _, hspec, hcount⟩ := exec_decodeOp_spec s w
  rw [hspec] at h
  cases h
  exact { params := rfl, session := fun _ => ⟨rfl, rfl, rfl⟩, count := fun _ => hcount }

/-- A listed turn but the reset input's leaves each to its owner. -/
theorem turnStep_ownersWrite {s t : State} {turn : Turn} (hreset : ∀ level, turn ≠ .resetPin level)
    (h : turnStep s turn = .next t) : OwnersWrite s t := by
  rcases turnStep_cases h with ⟨_, hcore⟩ | ⟨level, hturn, _⟩ | ⟨_, hexec⟩ | hhost
  · exact coreStep_ownersWrite hcore
  · exact absurd hturn (hreset level)
  · exact exec_decodeOp_ownersWrite hexec
  · obtain ⟨_, _, _, _, _, _, _, _, _, _, rfl⟩ := hhost
    exact { OwnersWrite.refl s with }

/-- Settles O54: a step is a turn that is not the reset input's, the core's turn, or nothing. -/
theorem onlyOwnersWriteTheSession : Obligations.OnlyOwnersWriteTheSession := by
  unfold Obligations.OnlyOwnersWriteTheSession
  intro s t hs hreset
  suffices howners : OwnersWrite s t from ⟨howners.params, howners.session, howners.count⟩
  rcases step_cases s with ⟨turn, rest, hturns, hstep⟩ | ⟨_, hstep⟩ | ⟨_, _, hstep⟩ <;>
    rw [hstep] at hs
  · have hturn : ∀ level, turn ≠ .resetPin level := by
      rintro level rfl
      exact hreset level rest hturns
    exact { turnStep_ownersWrite hturn hs with }
  · exact coreStep_ownersWrite hs
  · cases hs; exact .refl s

end Sys2Proof.Machine
end

section
/-! PROOFS. What the host reads, the reset values, and the link from a step to `exec`. -/

namespace Sys2Proof.Machine

/-- STATUS as a number, field by field (R37). -/
theorem State.status_toNat (s : State) : s.status.toNat =
    s.lastOp.toNat * 256 + s.result.code.toNat * 16 + s.hc.toNat * 8 + s.phase.code.toNat * 2 +
      s.busy.toNat := by
  simp only [State.status, append_toNat, BitVec.toNat_ofBool, BitVec.toNat_ofNat]
  omega

/-- An offset that is unaligned or past the last register reads 0 (R31, R41). -/
theorem State.regValue_unlisted {s : State} {off : Word} (h : off.toNat % 4 ≠ 0 ∨ 0x24 < off.toNat) :
    s.regValue off = 0#32 := by
  unfold State.regValue
  repeat' split
  case isFalse => rfl
  all_goals next hoff => subst hoff; simp at h

/-- Settles O48: the registers are read off, STATUS as the sum of its fields, the count as its two words. -/
theorem registerReads : Obligations.RegisterReads := by
  unfold Obligations.RegisterReads
  intro s
  refine ⟨rfl, rfl, rfl, rfl, rfl, ?_, ?_, ?_, rfl, rfl, fun _ => State.regValue_unlisted,
    fun _ => rfl, fun _ => ⟨rfl, rfl⟩⟩
  · change s.status.toNat = _
    rw [State.status_toNat]
    congr 1
    · congr 1
      · congr 1
        · congr 2
          cases s.result <;> rfl
        · unfold State.hc
          cases s.blockScale <;> rfl
      · congr 1
        cases s.phase <;> rfl
    · unfold State.busy
      by_cases hidle : s.seq = .idle <;> simp [hidle]
  · change (s.blockCount.extractLsb' 0 32).toNat = _
    simp [BitVec.extractLsb'_toNat]
  · change ((s.blockCount.extractLsb' 32 1).setWidth 32).toNat = _
    simp [BitVec.extractLsb'_toNat, Nat.shiftRight_eq_div_pow]
    omega

/-- Settles O46: a step is `exec` of what its encoding decodes to; an OP write's turn presents its word, and a
command's frame decodes to the instruction whose `exec` is the command's call. -/
theorem stepRunsTheDecodedInstruction : Obligations.StepRunsTheDecodedInstruction := by
  unfold Obligations.StepRunsTheDecodedInstruction
  refine ⟨fun s t e i hfetch hdec => ?_, fun s rest w hreset hturns => ?_,
    fun s c i hnext hq hdec => ?_⟩
  · unfold step
    simp only [hfetch, hdec]
  · rw [step_turn hturns]
    simp [turnStep, hreset]
  · have hrun := run_command s s c
    simp only [hdec] at hrun
    rw [step_core hnext, coreStep, hq, hrun]

/-- Settles O51: the reset state is written out, and each value is read off. -/
theorem resetValues : Obligations.ResetValues := by
  unfold Obligations.ResetValues
  decide

end Sys2Proof.Machine
end

section
/-! SUPPORT. A data byte of a READ_BLOCKS: its exchange, its store and what the two leave behind (`keepByte`); and
where the core's step answers. -/

namespace Sys2Proof.Machine

variable (s : State)

@[simp] theorem State.exchange1_bufAddr (b : Byte) : (s.exchange1 b).bufAddr = s.bufAddr := by
  simp [State.bufAddr]
@[simp] theorem State.exchange1_admits (b : Byte) (a : Word) (kind : AccessKind) :
    (s.exchange1 b).admits a kind = s.admits a kind := by
  simp [State.admits]

/-- An exchange writes the received byte, the trace and the free inputs (R142). -/
theorem State.exchange1_eq (b : Byte) : s.exchange1 b = { s with
    rx := s.drawCard.rx, trace := .xchg b s.drawCard.rx :: s.trace, env := s.drawCard.env } := by
  unfold State.exchange1 State.drawCard; split <;> rfl

/-- The control point after data byte `i` for the host buffer (R224). It is irreducible because Lean otherwise
evaluates its test wherever two states are compared. -/
@[irreducible] def pointAfterByte (i : Nat) : Seq :=
  if i + 1 < Config.blockSize then .dataRecv .buffer else .crcRecv .buffer false

theorem pointAfterByte_eq (i : Nat) : pointAfterByte i =
    if i + 1 < Config.blockSize then .dataRecv .buffer else .crcRecv .buffer false := by
  unfold pointAfterByte; rfl

theorem pointAfterByte_ne_idle (i : Nat) : pointAfterByte i ≠ .idle := by
  rw [pointAfterByte_eq]
  split <;> nofun

/-- What a data byte received for the host buffer leaves behind: `b` is the byte in memory after it, `loads` are
the host's loads, `choices` and `drawn` the draws (R151, R345). -/
def State.keepByte (b : Byte) (loads : List HostLoad) (choices : List Nat) (drawn : Nat) : State :=
  { s with
    seq := pointAfterByte s.idx
    idx := s.idx + 1
    mem := s.mem.write s.bufAddr.toNat b
    race := { s.race with
      done := s.race.done + 1
      coreWrote := { addr := s.bufAddr, old := s.memRead s.bufAddr, card := s.rx } ::
        s.race.coreWrote }
    hostLoads := loads
    env := { s.env with choices := choices, choicesDrawn := drawn } }

section
variable (b : Byte) (loads : List HostLoad) (cs : List Nat) (n : Nat)

@[simp] theorem State.keepByte_seq : (s.keepByte b loads cs n).seq = pointAfterByte s.idx := rfl
@[simp] theorem State.keepByte_idx : (s.keepByte b loads cs n).idx = s.idx + 1 := rfl
@[simp] theorem State.keepByte_blk : (s.keepByte b loads cs n).blk = s.blk := rfl
@[simp] theorem State.keepByte_opLatch : (s.keepByte b loads cs n).opLatch = s.opLatch := rfl
@[simp] theorem State.keepByte_params : (s.keepByte b loads cs n).params = s.params := rfl
@[simp] theorem State.keepByte_rx : (s.keepByte b loads cs n).rx = s.rx := rfl
@[simp] theorem State.keepByte_resetIn : (s.keepByte b loads cs n).resetIn = s.resetIn := rfl
@[simp] theorem State.keepByte_turns : (s.keepByte b loads cs n).env.turns = s.env.turns := rfl
@[simp] theorem State.keepByte_card : (s.keepByte b loads cs n).env.card = s.env.card := rfl
@[simp] theorem State.keepByte_hostWrote :
    (s.keepByte b loads cs n).race.hostWrote = s.race.hostWrote := rfl
@[simp] theorem State.keepByte_hostLoads : (s.keepByte b loads cs n).hostLoads = loads := rfl
@[simp] theorem State.keepByte_mem :
    (s.keepByte b loads cs n).mem = (s.memWrite s.bufAddr b).mem := rfl

end

variable {s}

/-- The block goes on after data byte `i` for the host buffer (R151, R224). -/
theorem State.nextDataByte_buffer {i : Nat} (h : s.idx = i) :
    s.nextDataByte .buffer = { s with idx := i + 1, seq := pointAfterByte i } := by
  subst h
  rw [pointAfterByte_eq]
  rfl

/-- The store of a received byte, the loads settled, and the step to the next byte are `keepByte` together. -/
theorem State.nextDataByte_stored (s : State) (b : Byte) (loads : List HostLoad) (cs : List Nat)
    (n : Nat) :
    State.nextDataByte (((s.setDraws cs n).stored s.bufAddr s.rx b).setLoads loads) .buffer =
      s.keepByte b loads cs n := by
  have hidx : (((s.setDraws cs n).stored s.bufAddr s.rx b).setLoads loads).idx = s.idx := by
    simp only [State.setLoads_idx, State.stored, State.memWrite_idx, State.setDraws_idx]
  rw [State.nextDataByte_buffer hidx]
  simp only [State.setLoads, State.stored, State.memWrite, State.setDraws, State.keepByte,
    State.memRead]

/-- A data byte for the host buffer stops the core where HOST_MEM_ADMIT refuses its address (R151, R351). -/
theorem State.dataByte_refused (h : s.admits s.bufAddr .write = false) :
    s.dataByte .buffer = .fault (.hostAccessRefused s.bufAddr .write) := by
  simp [State.dataByte, State.coreStore, h]

/-- An admitted data byte for the host buffer is kept, or the host's byte stays, and the waiting loads are settled
(R151, R345). -/
theorem State.dataByte_admitted (h : s.admits s.bufAddr .write = true) :
    ∃ b loads cs n, s.dataByte .buffer = .next (s.keepByte b loads cs n) ∧
      (racing s.race.hostWrote s.bufAddr = [] → b = s.rx) ∧
      List.Forall₂ (HostLoad.SettlesTo s.bufAddr s.rx) s.hostLoads loads := by
  simp only [State.dataByte]
  cases hstore : s.coreStore s.bufAddr s.rx with
  | next s' =>
    obtain ⟨_, b, loads, cs, n, hb, rfl, hloads⟩ := State.coreStore_next hstore
    exact ⟨b, loads, cs, n, by simp only [State.nextDataByte_stored],
      fun hnone => hb.resolve_right fun hrace => hrace.1 hnone, hloads⟩
  | fault f => exact absurd (State.coreStore_fault hstore).2 (by simp [h])
  | refused r => exact absurd hstore State.coreStore_refused

/-- What a data byte for the host buffer leaves behind, where it answers (R151, R345). -/
theorem State.dataByte_next {t : State} (h : s.dataByte .buffer = .next t) :
    ∃ b loads cs n, t = s.keepByte b loads cs n ∧
      List.Forall₂ (HostLoad.SettlesTo s.bufAddr s.rx) s.hostLoads loads := by
  cases hadm : s.admits s.bufAddr .write
  · rw [State.dataByte_refused hadm] at h
    cases h
  · obtain ⟨b, loads, cs, n, hnext, _, hloads⟩ := State.dataByte_admitted hadm
    rw [hnext] at h
    cases h
    exact ⟨b, loads, cs, n, rfl, hloads⟩

/-- A fill byte at a data byte of a READ_BLOCKS is the exchange and the byte's store (R92, R151). -/
theorem execFill_dataRecv (hq : s.seq = .dataRecv .buffer) :
    exec .fill s = (s.exchange1 Config.fill).dataByte .buffer := by
  simp only [exec, execFill, State.afterFill, State.exchange1_seq, hq]

/-- The core's step there is that fill byte (R146). -/
theorem coreStep_dataRecv (hq : s.seq = .dataRecv .buffer) :
    coreStep s = (s.exchange1 Config.fill).dataByte .buffer := by
  simp only [coreStep, hq, State.afterFill, State.exchange1_seq]

/-- Away from the two accesses to the buffer the core's step answers the next state. -/
theorem coreStep_answers (hrecv : s.seq ≠ .dataRecv .buffer) (hsend : s.seq ≠ .dataSend) :
    ∃ t, coreStep s = .next t := by
  unfold coreStep
  cases hq : s.seq
  case dataSend => exact absurd hq hsend
  case dataRecv d =>
    cases d
    · exact absurd hq hrecv
    · simp only [State.afterFill, State.exchange1_seq, hq, State.dataByte]; exact ⟨_, rfl⟩
  case crcRecv d second =>
    simp only [State.afterFill, State.exchange1_seq, hq]
    cases second <;> exact ⟨_, rfl⟩
  all_goals
    simp only [State.afterFill, State.exchange1_seq, hq, micro]
    exact ⟨_, rfl⟩

end Sys2Proof.Machine
end

section
/-! PROOFS. Every step keeps the transfer invariant. As for the session invariant, the core's steps are followed
control point by control point: `TransferAt q` is the invariant at `q`, and `{ r with .. }` names the parts a
step has to answer for. -/

namespace Sys2Proof.Machine

/-- The transfer invariant with its control point `q` named apart from the state. -/
structure State.TransferAt (s : State) (q : Seq) : Prop where
  length : inTransfer q = true →
    0 < s.opLatch.len.toNat ∧ s.opLatch.len.toNat % Config.blockSize = 0
  address : inTransfer q = true → addrOverflow s.blockScale s.opLatch.bn = false
  blocks : blocksFit q s.nBlocks = true
  counters : countersFit q s.blk.toNat s.idx s.nBlocks = true
  progress : progressFits q s.blk.toNat s.idx s.opLatch.len.toNat s.race.done = true

/-- The transfer invariant is `TransferAt` a state's own control point. -/
theorem State.TransferInv.of_at {s : State} (r : s.TransferAt s.seq) : s.TransferInv := { r with }

/-- At the control point a state stands at, `TransferAt` is the transfer invariant. -/
theorem State.TransferInv.of_seq {s : State} {q : Seq} (r : s.TransferAt q) (hq : s.seq = q) :
    s.TransferInv := .of_at (hq ▸ r)

/-- At the control point of a state the transfer invariant is `TransferAt` there. -/
theorem State.TransferInv.transferAt {s : State} {q : Seq} (h : s.TransferInv) (hq : s.seq = q) :
    s.TransferAt q := by
  subst hq
  exact { h with }

/-- The registers the transfer invariant speaks of beside `seq`. -/
def State.transferPart (s : State) : OpLatch × BlockScale × Word × Nat × Nat :=
  (s.opLatch, s.blockScale, s.blk, s.idx, s.race.done)

/-- What writes none of these registers keeps `TransferAt`. -/
theorem State.TransferAt.congr {s t : State} {q : Seq} (r : s.TransferAt q)
    (h : t.transferPart = s.transferPart) : t.TransferAt q := by
  simp only [State.transferPart, Prod.mk.injEq] at h
  obtain ⟨hlatch, hscale, hblk, hidx, hdone⟩ := h
  constructor <;> simp only [hlatch, hscale, hblk, hidx, hdone, State.nBlocks]
  exacts [r.length, r.address, r.blocks, r.counters, r.progress]

/-- An exchange writes none of them (R142). -/
theorem State.TransferAt.exchange1 {s : State} {q : Seq} (r : s.TransferAt q) (b : Byte) :
    (s.exchange1 b).TransferAt q :=
  r.congr (by simp [State.transferPart])

/-- A clock read writes none of them (R60). -/
theorem State.TransferAt.readClock {s : State} {q : Seq} (r : s.TransferAt q) :
    s.readClock.TransferAt q :=
  r.congr (by simp [State.transferPart])

/-- `t0` is none of them (R53). -/
theorem State.TransferAt.sampleT0 {s : State} {q : Seq} (r : s.TransferAt q) :
    s.sampleT0.TransferAt q :=
  r.congr (by simp [State.transferPart])

/-- A command's control points belong to the operation that issues it (R106). -/
theorem opOf_of_cmdOf {q : Seq} {c : Cmd} (h : cmdOf q = some c) : opOf q = opOfCmd c := by
  cases q <;> cases h <;> rfl

/-- No control point outside a transfer belongs to a command of one. -/
theorem cmdOf_ne_of_outside {q : Seq} {c : Cmd} (hout : inTransfer q = false)
    (hc : opOfCmd c = .read ∨ opOfCmd c = .write) : cmdOf q ≠ some c := by
  intro h
  simp only [inTransfer, opOf_of_cmdOf h, Bool.or_eq_false_iff, decide_eq_false_iff_not] at hout
  exact hc.elim hout.1 hout.2

/-- Outside a transfer the invariant asks for the CSD's byte counter only (R54). -/
theorem State.TransferAt.outside {s : State} {q : Seq} (hout : inTransfer q = false)
    (hcsd : q ≠ .dataRecv .csd) : s.TransferAt q where
  length := fun h => absurd (h.symm.trans hout) nofun
  address := fun h => absurd (h.symm.trans hout) nofun
  blocks := by
    unfold blocksFit
    split
    · cases hout
    · split
      case h_6 => rfl
      all_goals exact absurd ‹cmdOf q = _› (cmdOf_ne_of_outside hout (by decide))
  counters := by
    unfold countersFit
    split
    case h_3 => exact absurd rfl hcsd
    case h_16 => rfl
    all_goals cases hout
  progress := by
    unfold progressFits
    split
    case h_16 =>
      split
      case h_6 => rfl
      all_goals exact absurd ‹cmdOf q = _› (cmdOf_ne_of_outside hout (by decide))
    all_goals cases hout

/-- A state outside a transfer, and at no byte of the CSD, meets the invariant. -/
theorem State.TransferInv.outside {s : State} (hout : inTransfer s.seq = false)
    (hcsd : s.seq ≠ .dataRecv .csd) : s.TransferInv := .of_at (.outside hout hcsd)

/-- The length of a transfer is its blocks', one at least (R222). -/
theorem State.TransferAt.len_eq {s : State} {q : Seq} (r : s.TransferAt q)
    (hin : inTransfer q = true) :
    s.opLatch.len.toNat = Config.blockSize * s.nBlocks ∧ 0 < s.nBlocks := by
  obtain ⟨hpos, hmod⟩ := r.length hin
  simp only [State.nBlocks, blocksIn, Config.blockSize] at *
  omega

/-- A transfer goes on with block `k`, to be received or sent, once the blocks before it are done (R230, R232). -/
theorem State.TransferAt.startBlock {s : State} {q q' : Seq} {k : Word} (r : s.TransferAt q)
    (hin : inTransfer q = true) (hq' : q' = .tokT0 .buffer ∨ q' = .tokenOut)
    (hk : k.toNat < s.nBlocks) (hdone : s.race.done = Config.blockSize * k.toNat) :
    State.TransferInv { s with blk := k, seq := q' } := by
  rcases hq' with rfl | rfl
  all_goals exact
    { length := fun _ => r.length hin, address := fun _ => r.address hin, blocks := rfl
      counters := decide_eq_true hk, progress := decide_eq_true hdone }

/-- After a block that is not the last the next one is in range (R222). -/
theorem State.blk_succ_toNat {s : State} (h : s.blk.toNat + 1 < s.nBlocks) :
    (s.blk + 1#32).toNat = s.blk.toNat + 1 := by
  have hlen := s.opLatch.len.isLt
  simp only [State.nBlocks, blocksIn, Config.blockSize] at h
  rw [BitVec.toNat_add, BitVec.toNat_ofNat]
  omega

/-- After a block of several the transfer goes on with the next block, or, every byte of the buffer accessed,
with the command or token that ends it (R230, R232). -/
theorem State.TransferAt.nextBlock {s : State} {q next last : Seq} (r : s.TransferAt q)
    (hin : inTransfer q = true) (hnext : next = .tokT0 .buffer ∨ next = .tokenOut)
    (hlast : last = .issue .cmd12 ∨ last = .stopToken) (hmulti : ¬ s.nBlocks ≤ 1)
    (hblk : s.blk.toNat < s.nBlocks)
    (hdone : s.race.done = Config.blockSize * (s.blk.toNat + 1)) :
    (if s.blk.toNat + 1 < s.nBlocks then { s with blk := s.blk + 1#32, seq := next }
      else s.setSeq last).TransferInv := by
  split
  · next hlt =>
    have hsucc := State.blk_succ_toNat hlt
    exact r.startBlock hin hnext (hsucc ▸ hlt) (hsucc ▸ hdone)
  · next hge =>
    have hall : s.race.done = s.opLatch.len.toNat := by
      rw [(r.len_eq hin).1, hdone, show s.blk.toNat + 1 = s.nBlocks by omega]
    have htwo : 2 ≤ s.nBlocks := by omega
    rcases hlast with rfl | rfl
    all_goals exact
      { length := fun _ => r.length hin, address := fun _ => r.address hin
        blocks := decide_eq_true htwo, counters := rfl, progress := decide_eq_true hall }

/-- A received block is followed by END, the next block or CMD12 (R229, R230, R260). -/
theorem State.TransferAt.blockEnd {s : State} {d : Dest} (r : s.TransferAt (.crcRecv d true)) :
    (s.blockEnd d).TransferInv := by
  cases d <;> simp only [State.blockEnd, State.blockReceived]
  case csd => exact .outside rfl nofun
  case buffer =>
    split
    · exact .outside rfl nofun
    · exact r.nextBlock rfl (.inl rfl) (.inl rfl) ‹_› (of_decide_eq_true r.counters)
        (of_decide_eq_true r.progress)

/-- A sent block is followed by END, the next block or the stop token (R231, R232). -/
theorem State.TransferAt.blockSent {s : State} (r : s.TransferAt .wrReady) :
    s.blockSent.TransferInv := by
  unfold State.blockSent
  split
  · exact .outside rfl nofun
  · exact r.nextBlock rfl (.inr rfl) (.inr rfl) ‹_› (of_decide_eq_true r.counters)
      (of_decide_eq_true r.progress)

/-- The result of CMD17 or CMD18: the first block, no byte of the buffer accessed yet, or END (R229, R230). -/
theorem State.TransferAt.gotRead {s : State} {q : Seq} {res : CmdResult} (r : s.TransferAt q)
    (hin : inTransfer q = true) (hdone : s.race.done = 0) : (s.gotRead res).TransferInv := by
  cases res <;> simp only [State.gotRead]
  case timeout => exact .outside rfl nofun
  case resp =>
    split
    · exact r.startBlock hin (.inl rfl) (r.len_eq hin).2 hdone
    · exact .outside rfl nofun

/-- The result of CMD24 or CMD25: the first block, no byte of the buffer accessed yet, or END (R231, R232). -/
theorem State.TransferAt.gotWrite {s : State} {q : Seq} {res : CmdResult} (r : s.TransferAt q)
    (hin : inTransfer q = true) (hdone : s.race.done = 0) : (s.gotWrite res).TransferInv := by
  cases res <;> simp only [State.gotWrite]
  case timeout => exact .outside rfl nofun
  case resp =>
    split
    · exact r.startBlock hin (.inr rfl) (r.len_eq hin).2 hdone
    · exact .outside rfl nofun

/-- What each caller does with its command's result keeps the transfer invariant (R12). -/
theorem State.TransferAt.gotResult {s : State} {c : Cmd} {res : CmdResult}
    (r : s.TransferAt (.got c res)) : (s.gotResult c res).TransferInv := by
  cases c <;> simp only [State.gotResult]
  case cmd17 | cmd18 => exact r.gotRead rfl (of_decide_eq_true r.progress)
  case cmd24 | cmd25 => exact r.gotWrite rfl (of_decide_eq_true r.progress)
  case cmd12 | cmd55 => exact .outside rfl nofun
  case cmd0 =>
    cases res <;> simp only [State.gotCmd0]
    case timeout => exact .outside rfl nofun
    case resp => split <;> exact .outside rfl nofun
  case cmd8 =>
    cases res <;> simp only [State.gotCmd8]
    case timeout => exact .outside rfl nofun
    case resp => split <;> exact .outside rfl nofun
  case cmd41 =>
    unfold State.gotCmd41
    split
    · exact .outside rfl nofun
    · split <;> exact .outside rfl nofun
  case cmd58 => unfold State.gotCmd58 State.step6; split <;> exact .outside rfl nofun
  case cmd16 => unfold State.gotCmd16; split <;> exact .outside rfl nofun
  case cmd9 => unfold State.gotCmd9; split <;> exact .outside rfl nofun

/-- One more byte of a block accessed: the next one follows, or, the block complete, its CRC (R92, R224, R225). -/
theorem State.TransferAt.byteDone {s : State} {q crc : Seq} (r : s.TransferAt q)
    (hq : q = .dataRecv .buffer ∧ crc = .crcRecv .buffer false ∨ q = .dataSend ∧ crc = .crcHi) :
    State.TransferAt { s with idx := s.idx + 1, race := { s.race with done := s.race.done + 1 } }
      (if s.idx + 1 < Config.blockSize then q else crc) := by
  rcases hq with ⟨rfl, rfl⟩ | ⟨rfl, rfl⟩
  all_goals
    obtain ⟨hblk, hidx⟩ := Bool.and_eq_true_iff.mp r.counters
    have hdone := of_decide_eq_true r.progress
    have hidx' := of_decide_eq_true hidx
    split
    next hmore =>
      exact { r with
        counters := Bool.and_eq_true_iff.mpr ⟨hblk, decide_eq_true hmore⟩
        progress := decide_eq_true (by rw [hdone, Nat.add_assoc]) }
    next hfull =>
      exact { r with
        counters := hblk
        progress := decide_eq_true (by simp only [hdone, Nat.mul_add_one]; omega) }

/-- A received data byte goes to the host buffer, accessed once more, or to `csd`, whose bytes it counts
(R151, R260). -/
theorem State.TransferAt.dataByte {s t : State} {d : Dest} (r : s.TransferAt (.dataRecv d))
    (h : s.dataByte d = .next t) : t.TransferInv := by
  cases d
  case csd =>
    cases h
    by_cases hmore : s.idx + 1 < Config.csdSize <;> simp only [State.nextDataByte, Dest.size, hmore]
    · exact .of_at { r with counters := decide_eq_true hmore }
    · exact .outside rfl nofun
  case buffer =>
    obtain ⟨b, loads, cs, n, rfl, _⟩ := State.dataByte_next h
    have r' := r.byteDone (.inl ⟨rfl, rfl⟩)
    rw [← pointAfterByte_eq] at r'
    exact .of_at (r'.congr rfl)

/-- A data byte of a written block is one more byte of the buffer accessed (R225). -/
theorem State.TransferAt.sendDataByte {s t : State} (r : s.TransferAt .dataSend)
    (h : s.sendDataByte = .next t) : t.TransferInv := by
  unfold State.sendDataByte at h
  split at h
  case isFalse => cases h
  case isTrue =>
    obtain ⟨_, cs, n, hload⟩ := s.coreLoad_spec s.bufAddr
    simp only [hload] at h
    cases h
    simp only [State.exchange1_idx, State.setDraws_idx]
    exact .of_at ((r.byteDone (.inr ⟨rfl, rfl⟩)).congr (by simp [State.transferPart]))

/-- After the fourth payload byte comes step 4 or the OCR test, none of it in a transfer (R193, R195). -/
theorem State.payloadByte_transfer (s : State) (p : Payload) (k : Fin 4) :
    (s.payloadByte p k).TransferInv := by
  cases p <;> simp only [State.payloadByte] <;> split <;> exact .outside rfl nofun

/-- What follows END is outside a transfer (R197, R198, R229, R260). -/
theorem State.afterEnd_transfer (s : State) (k : Ending) : (s.afterEnd k).TransferInv := by
  cases k <;> exact .outside rfl nofun

/-- What follows a fill byte keeps the transfer invariant. -/
theorem State.TransferInv.afterFill {s t : State} (h : s.TransferInv) (hs : s.afterFill = .next t) :
    t.TransferInv := by
  unfold State.afterFill at hs
  cases hq : s.seq <;> simp only [hq] at hs
  case dataRecv d => exact (h.transferAt hq).dataByte hs
  case crcRecv d second =>
    have r := h.transferAt hq
    cases second <;> cases hs
    · cases d <;> exact .of_at { r with }
    · exact r.blockEnd
  case payload p k => cases hs; exact s.payloadByte_transfer p k
  case endPad k => cases hs; exact s.afterEnd_transfer k
  case initFill left => cases hs; split <;> exact .outside rfl nofun
  case tokPoll d =>
    have r := h.transferAt hq
    cases hs
    cases d <;> exact .of_at { r with }
  case cmdPad | cmdPoll | r1Poll | respPoll | wrPoll =>
    have r := h.transferAt hq
    cases hs
    exact .of_at { r with }
  all_goals cases hs; exact h

/-- A frame byte goes on with the next one, or with the R1 poll (R163). -/
theorem State.TransferAt.sendFrameByte {s : State} {c : Cmd} {i : Fin 6}
    (r : s.TransferAt (.cmdSend c i)) : (s.sendFrameByte c i).TransferInv := by
  have r' := r.exchange1 s.cmdFrame[i.val]
  unfold State.sendFrameByte
  simp only
  split <;> exact .of_at { r' with }

/-- Another R1 poll, or `Timeout` (R165). -/
theorem State.TransferAt.noR1 {s : State} {c : Cmd} (r : s.TransferAt (.r1Test c))
    (hq : s.seq = .r1Test c) : s.noR1.TransferInv := by
  simp only [State.noR1, hq]
  split <;> exact .of_at { r with }

/-- Another token poll, or END once the time is up (R224, R260). -/
theorem State.TransferAt.noToken {s : State} {d : Dest} (r : s.TransferAt (.tokTest d))
    (hq : s.seq = .tokTest d) : s.noToken.TransferInv := by
  have r' := r.readClock
  simp only [State.noToken, hq]
  cases d <;> split
  case buffer.isTrue | csd.isTrue => exact .outside rfl nofun
  case buffer.isFalse | csd.isFalse => exact .of_at { r' with }

/-- The awaited token: the block's data bytes follow, from byte 0 (R224, R260). -/
theorem State.TransferAt.tokenCame {s : State} {d : Dest} (r : s.TransferAt (.tokTest d)) :
    State.TransferInv { s with idx := 0, seq := .dataRecv d } := by
  cases d
  case csd => exact .of_at { r with counters := rfl }
  case buffer =>
    exact .of_at { r with counters := Bool.and_eq_true_iff.mpr ⟨r.counters, rfl⟩ }

/-- The token of a written block: its data bytes follow, from byte 0 (R225). -/
theorem State.TransferAt.tokenSent {s : State} (r : s.TransferAt .tokenOut)
    (hq : s.seq = .tokenOut) : s.tokenSent.TransferInv := by
  simp only [State.tokenSent, hq]
  exact .of_at { r with counters := Bool.and_eq_true_iff.mpr ⟨r.counters, rfl⟩ }

/-- The ready wait after a block: another poll, or END once the time is up (R162, R225). -/
theorem State.TransferAt.notReadyBlock {s : State} (r : s.TransferAt .wrReady)
    (hq : s.seq = .wrReady) : s.notReady.TransferInv := by
  have r' := r.readClock
  simp only [State.notReady, hq]
  split
  · exact .outside rfl nofun
  · exact .of_at { r' with }

/-- The ready wait before a command: another poll, or `Timeout` once the time is up (R162, R163). -/
theorem State.TransferAt.notReadyCmd {s : State} {c : Cmd} {arg : Word}
    (r : s.TransferAt (.cmdReady c arg)) (hq : s.seq = .cmdReady c arg) :
    s.notReady.TransferInv := by
  have r' := r.readClock
  simp only [State.notReady, hq]
  split <;> exact .of_at { r' with }

/-- The core's step keeps the transfer invariant, control point by control point. -/
theorem State.TransferInv.after_coreStep {s t : State} (h : s.TransferInv)
    (hs : coreStep s = .next t) : t.TransferInv := by
  unfold coreStep at hs
  cases hq : s.seq <;> simp only [hq, micro] at hs
  case idle => cases hs; exact h
  all_goals have r := h.transferAt hq
  case initFill | cmdPad | cmdPoll | r1Poll | payload | tokPoll | dataRecv | crcRecv | respPoll
      | wrPoll | endPad =>
    exact State.TransferInv.afterFill (.of_seq (r.exchange1 _) (s.exchange1_seq _ ▸ hq)) hs
  case dataSend => exact r.sendDataByte hs
  all_goals cases hs
  case initEntry | initSpeed | delayT0 | initRaise | initDone | initFailed | countWrite | fin =>
    exact .outside rfl nofun
  case initDeselect => split <;> exact .outside rfl nofun
  case delayTest => unfold State.delayStep; simp only; split <;> exact .outside rfl nofun
  case ocrTest => unfold State.step6; split <;> exact .outside rfl nofun
  case issue | cmdSelect | cmdFrame | endDeselect => exact .of_at { r with }
  case tokT0 d => cases d <;> exact .of_at { r.sampleT0 with }
  case cmdT0 | wrT0 => exact .of_at { r.sampleT0 with }
  case cmdSend c i => exact r.sendFrameByte
  case got => exact r.gotResult
  case cmdReady c arg =>
    split
    · exact .of_at { r with }
    · exact r.notReadyCmd hq
  case r1Test c =>
    split
    · exact r.noR1 hq
    · exact .of_at { r with }
  case tokTest d =>
    split
    · exact r.tokenCame
    · exact r.noToken hq
  case tokenOut => exact (r.exchange1 _).tokenSent (s.exchange1_seq _ ▸ hq)
  case crcHi => exact .of_at { r.exchange1 (s.crc16.extractLsb' 8 8) with }
  case crcLo => exact .of_at { r.exchange1 (s.crc16.extractLsb' 0 8) with }
  case respTest =>
    split
    · exact .of_at { r with }
    · simp only [State.rejectedBlock, hq]
      exact .outside rfl nofun
  case wrReady =>
    split
    · exact r.blockSent
    · exact r.notReadyBlock hq
  case stopToken => exact .outside rfl nofun

/-- What the pre-checks of a block operation establish (R222, R282). -/
theorem State.preCheckBlocks_pass {s : State} (h : s.preCheckBlocks = none) :
    (0 < s.length.toNat ∧ s.length.toNat % Config.blockSize = 0) ∧
      addrOverflow s.blockScale s.blockNumber = false := by
  unfold State.preCheckBlocks at h
  repeat' split at h
  all_goals cases h
  next hlen _ hover =>
    obtain ⟨hpos, hmod⟩ := not_or.mp hlen
    exact ⟨⟨Nat.pos_of_ne_zero hpos, not_not.mp hmod⟩, by simpa using hover⟩

/-- A block operation starts with the command that fits its number of blocks, no byte accessed (R222, R228). -/
theorem State.acceptBlocks_transfer {s : State} {opc : BitVec 4} {single multi : Cmd}
    (hcmds : single = .cmd17 ∧ multi = .cmd18 ∨ single = .cmd24 ∧ multi = .cmd25)
    (hpass : s.preCheckBlocks = none) :
    (s.acceptOp opc (.issue (if blocksIn s.length = 1 then single else multi))).TransferInv := by
  obtain ⟨⟨hpos, hmod⟩, haddr⟩ := State.preCheckBlocks_pass hpass
  have hblocks : 1 ≤ blocksIn s.length := by
    simp only [blocksIn, Config.blockSize] at *
    omega
  rcases hcmds with ⟨rfl, rfl⟩ | ⟨rfl, rfl⟩
  all_goals
    split
    next hone =>
      exact
        { length := fun _ => ⟨hpos, hmod⟩, address := fun _ => haddr
          blocks := decide_eq_true hone, counters := rfl, progress := rfl }
    next hmany =>
      exact
        { length := fun _ => ⟨hpos, hmod⟩, address := fun _ => haddr
          blocks := decide_eq_true (show 2 ≤ blocksIn s.length by omega), counters := rfl
          progress := rfl }

/-- READ_BLOCKS and WRITE_BLOCKS: an error code, or the block operation (R228, R282). -/
theorem State.TransferInv.startBlocks {s : State} {opc : BitVec 4} {single multi : Cmd}
    (h : s.TransferInv)
    (hcmds : single = .cmd17 ∧ multi = .cmd18 ∨ single = .cmd24 ∧ multi = .cmd25) :
    (s.startBlocks opc single multi).TransferInv := by
  unfold State.startBlocks
  split
  · exact { h with }
  · next hpass => exact State.acceptBlocks_transfer hcmds hpass

/-- An OP write keeps the transfer invariant (R281, R282). -/
theorem State.TransferInv.opWrite {s t : State} {w : Word} (h : s.TransferInv)
    (hs : exec (decodeOp w) s = .next t) : t.TransferInv := by
  rcases decodeOp_cases w with hw | hw | hw | hw | hw | hw | ⟨_, hw⟩ | ⟨_, hw⟩ <;> rw [hw] at hs <;>
    cases hs
  · exact h
  · split
    · exact h
    · exact .outside rfl nofun
  · split
    · exact h
    · exact h.startBlocks (.inl ⟨rfl, rfl⟩)
  · split
    · exact h
    · exact h.startBlocks (.inr ⟨rfl, rfl⟩)
  · repeat' split
    · exact h
    · exact { h with }
    · exact .outside rfl nofun
  all_goals
    unfold State.illegalOp
    split
    · exact h
    · exact { h with }

/-- The invariant does not speak of the schedule. -/
theorem State.TransferInv.dropTurn {s : State} (h : s.TransferInv) (rest : List Turn) :
    (s.dropTurn rest).TransferInv := { h with }

/-- A listed turn keeps the transfer invariant, whoever's it is. -/
theorem State.TransferInv.after_turn {s t : State} {turn : Turn} (h : s.TransferInv)
    (hs : turnStep s turn = .next t) : t.TransferInv := by
  cases turn <;> simp only [turnStep] at hs
  case core =>
    split at hs
    · cases hs; exact h
    · exact h.after_coreStep hs
  case hostWrite off width w =>
    split at hs
    · cases hs; exact h
    · split at hs
      · exact h.opWrite hs
      · obtain ⟨_, _, _, _, hwrite⟩ := s.hostWriteReg_spec off width w
        cases hs; rw [hwrite]; exact { h with }
  case hostRead off width =>
    obtain ⟨_, hread⟩ := s.hostReadReg_spec off width
    cases hs; rw [hread]; exact { h with }
  case memWrite a v =>
    obtain ⟨_, _, _, _, hstore⟩ := s.hostStore_spec a v
    cases hs; rw [hstore]; exact { h with }
  case memRead a =>
    obtain ⟨_, _, _, hload⟩ := s.hostLoad_spec a
    cases hs; rw [hload]; exact { h with }
  case resetPin level => cases hs; exact .outside rfl nofun

/-- Settles O59: every step is a listed turn, the core's turn, or nothing, and each keeps the invariant. -/
theorem stepKeepsTheTransfer : Obligations.StepKeepsTheTransfer := by
  unfold Obligations.StepKeepsTheTransfer
  intro s t h hs
  rcases step_cases s with ⟨turn, rest, _, hstep⟩ | ⟨_, hstep⟩ | ⟨_, _, hstep⟩ <;> rw [hstep] at hs
  · exact (h.dropTurn rest).after_turn hs
  · exact h.after_coreStep hs
  · cases hs; exact h

end Sys2Proof.Machine
end

section
/-! PROOFS. The bytes of host memory a step writes, where a step stops, and the CRC bytes of a written block. -/

namespace Sys2Proof.Machine

/-- A step of the core writes no byte of memory but the one it receives for the buffer (R92, R151). -/
theorem coreStep_mem {s t : State} (h : coreStep s = .next t) :
    t.mem = s.mem ∨ s.seq = .dataRecv .buffer ∧ ∃ b, t.mem = (s.memWrite s.bufAddr b).mem := by
  by_cases hq : s.seq = .dataRecv .buffer
  · rw [coreStep_dataRecv hq] at h
    obtain ⟨b, _, _, _, rfl, _⟩ := State.dataByte_next h
    exact .inr ⟨hq, b, by simp⟩
  · exact .inl ((coreStep_frame h).mem hq)

/-- A turn that is not the core's writes no byte of memory but the one the host stores (R81, R94). -/
theorem turnStep_mem {s t : State} {turn : Turn} (hcore : turn ≠ .core)
    (h : turnStep s turn = .next t) :
    t.mem = s.mem ∨ ∃ a v, turn = .memWrite a v ∧ ∃ b, t.mem = (s.memWrite a b).mem := by
  cases turn <;> simp only [turnStep] at h
  case core => exact absurd rfl hcore
  case memWrite a v =>
    obtain ⟨b, _, _, _, hstore⟩ := s.hostStore_spec a v
    cases h; rw [hstore]
    exact .inr ⟨a, v, rfl, b, rfl⟩
  case hostWrite off width w =>
    left
    split at h
    · cases h; rfl
    · split at h
      · obtain ⟨_, _, _, _, _, _, _, hspec, _⟩ := exec_decodeOp_spec s w
        rw [hspec] at h; cases h; rfl
      · obtain ⟨_, _, _, _, hwrite⟩ := s.hostWriteReg_spec off width w
        cases h; rw [hwrite]
  case hostRead off width =>
    obtain ⟨_, hread⟩ := s.hostReadReg_spec off width
    cases h; rw [hread]; exact .inl rfl
  case memRead a =>
    obtain ⟨_, _, _, hload⟩ := s.hostLoad_spec a
    cases h; rw [hload]; exact .inl rfl
  case resetPin level => cases h; exact .inl rfl

/-- A step writes at most one byte of memory: the one the core receives, or the one the host stores. -/
theorem step_mem {s t : State} (h : step s = .next t) :
    t.mem = s.mem ∨
      (s.seq = .dataRecv .buffer ∧ ∃ b, t.mem = (s.memWrite s.bufAddr b).mem) ∨
      ∃ a v rest, s.env.turns = .memWrite a v :: rest ∧ ∃ b, t.mem = (s.memWrite a b).mem := by
  rcases step_cases s with ⟨turn, rest, hturns, hstep⟩ | ⟨_, hstep⟩ | ⟨_, _, hstep⟩ <;>
    rw [hstep] at h
  · by_cases hcore : turn = .core
    · subst hcore
      simp only [turnStep] at h
      split at h
      · cases h; exact .inl rfl
      · exact (coreStep_mem h).imp_right .inl
    · rcases turnStep_mem hcore h with hsame | ⟨a, v, rfl, hwrite⟩
      · exact .inl hsame
      · exact .inr (.inr ⟨a, v, rest, hturns, hwrite⟩)
  · exact (coreStep_mem h).imp_right .inl
  · cases h; exact .inl rfl

/-- Settles O55: the byte a step writes is one of the two that are named. -/
theorem onlyNamedBytesOfMemoryChange : Obligations.OnlyNamedBytesOfMemoryChange := by
  unfold Obligations.OnlyNamedBytesOfMemoryChange
  intro s t a hs hcore hhost
  rcases step_mem hs with hmem | ⟨hq, b, hmem⟩ | ⟨c, v, rest, hturns, b, hmem⟩ <;>
    simp only [State.memRead, hmem]
  · exact s.memRead_memWrite_other s.bufAddr a b (hcore hq)
  · exact s.memRead_memWrite_other c a b (hhost c v rest hturns)

/-- Settles O57: the one byte a step writes is written in canonical form. -/
theorem stepKeepsMemoryCanonical : Obligations.StepKeepsMemoryCanonical := by
  unfold Obligations.StepKeepsMemoryCanonical
  intro s t hwf hs
  rcases step_mem hs with hmem | ⟨_, b, hmem⟩ | ⟨a, _, _, _, b, hmem⟩ <;> rw [hmem]
  · exact hwf
  · exact s.memWrite_wf _ b hwf
  · exact s.memWrite_wf a b hwf

/-- The core at a buffer byte that HOST_MEM_ADMIT refuses, and the fault that names it (R151, R351). -/
def State.RefusedAccess (s : State) (f : Fault) : Prop :=
  (s.seq = .dataRecv .buffer ∧ s.admits s.bufAddr .write = false ∧
    f = .hostAccessRefused s.bufAddr .write) ∨
  (s.seq = .dataSend ∧ s.admits s.bufAddr .read = false ∧ f = .hostAccessRefused s.bufAddr .read)

/-- The core stops at a refused access (R151, R351). -/
theorem coreStep_refusedAccess {s : State} {f : Fault} (h : s.RefusedAccess f) :
    coreStep s = .fault f := by
  rcases h with ⟨hq, hrefused, rfl⟩ | ⟨hq, hrefused, rfl⟩
  · rw [coreStep_dataRecv hq, State.dataByte_refused (by simpa using hrefused)]
    simp
  · simp [coreStep, hq, micro, State.sendDataByte, hrefused]

/-- The core's step answers the next state or stops at a refused access (R151, R351). -/
theorem coreStep_cases (s : State) :
    (∃ t, coreStep s = .next t) ∨ ∃ f, s.RefusedAccess f ∧ coreStep s = .fault f := by
  by_cases hrecv : s.seq = .dataRecv .buffer
  · cases hadm : s.admits s.bufAddr .write
    · have hstop : s.RefusedAccess _ := .inl ⟨hrecv, hadm, rfl⟩
      exact .inr ⟨_, hstop, coreStep_refusedAccess hstop⟩
    · rw [coreStep_dataRecv hrecv]
      obtain ⟨_, _, _, _, hnext, _⟩ :=
        State.dataByte_admitted (s := s.exchange1 Config.fill) (by simpa using hadm)
      exact .inl ⟨_, hnext⟩
  · by_cases hsend : s.seq = .dataSend
    · cases hadm : s.admits s.bufAddr .read
      · have hstop : s.RefusedAccess _ := .inr ⟨hsend, hadm, rfl⟩
        exact .inr ⟨_, hstop, coreStep_refusedAccess hstop⟩
      · simp only [coreStep, hsend, micro, State.sendDataByte, hadm, if_true]
        exact .inl ⟨_, rfl⟩
    · exact .inl (coreStep_answers hrecv hsend)

/-- A listed turn answers the next state, or is the core's at a refused access. -/
theorem turnStep_answers (s : State) (turn : Turn) :
    (∃ t, turnStep s turn = .next t) ∨ ∃ f, s.RefusedAccess f ∧ turnStep s turn = .fault f := by
  cases turn <;> simp only [turnStep]
  case core =>
    split
    · exact .inl ⟨_, rfl⟩
    · exact coreStep_cases s
  case hostWrite off width w =>
    left
    split
    · exact ⟨_, rfl⟩
    · split
      · obtain ⟨_, _, _, _, _, _, _, hspec, _⟩ := exec_decodeOp_spec s w
        exact ⟨_, hspec⟩
      · exact ⟨_, rfl⟩
  all_goals exact .inl ⟨_, rfl⟩

/-- A step answers the next state or stops at a refused access (R351). -/
theorem step_answers (s : State) :
    (∃ t, step s = .next t) ∨ ∃ f, s.RefusedAccess f ∧ step s = .fault f := by
  rcases step_cases s with ⟨turn, rest, _, hstep⟩ | ⟨_, hstep⟩ | ⟨_, _, hstep⟩ <;> rw [hstep]
  · exact turnStep_answers (s.dropTurn rest) turn
  · exact coreStep_cases s
  · exact .inl ⟨s, rfl⟩

/-- Settles O56: a step answers or stops at a refused access, and the core's own step stops at each of them. -/
theorem stepStopsOnlyAtRefusedAccess : Obligations.StepStopsOnlyAtRefusedAccess := by
  unfold Obligations.StepStopsOnlyAtRefusedAccess
  intro s
  refine ⟨fun r hr => ?_, fun f hf => ?_, fun hnext hq hrefused => ?_, fun hnext hq hrefused => ?_⟩
  · rcases step_answers s with ⟨_, h⟩ | ⟨_, _, h⟩ <;> rw [h] at hr <;> cases hr
  · rcases step_answers s with ⟨_, h⟩ | ⟨_, hstop, h⟩ <;> rw [h] at hf <;> cases hf
    exact hstop
  · rw [step_core hnext, coreStep_refusedAccess (.inl ⟨hq, hrefused, rfl⟩)]
  · rw [step_core hnext, coreStep_refusedAccess (.inr ⟨hq, hrefused, rfl⟩)]

/-- Settles O37: the two CRC bytes are the control points' own steps, the high byte's first. -/
theorem crcGoesOutHighByteFirst : Obligations.CrcGoesOutHighByteFirst := by
  unfold Obligations.CrcGoesOutHighByteFirst
  refine fun s hnext => ⟨fun hq => ?_, fun hq => ?_⟩ <;>
    simp only [step_core hnext, coreStep, hq, micro, State.setSeq]

end Sys2Proof.Machine
end

section
/-! PROOFS. The frame of a fill byte's exchange, and the data byte it stores. -/

namespace Sys2Proof.Machine

/-- From `s` to `t` only registers were written that a fill byte's exchange and its sequel may write: the control
point, the received byte, the counters, the OCR, the CSD, the memory with its races and loads, the trace and the
free inputs. -/
def FillWrites (s t : State) : Prop :=
  t = { s with
    seq := t.seq, rx := t.rx, r1Tries := t.r1Tries, acmd41Iter := t.acmd41Iter, ocr := t.ocr
    csd := t.csd, blk := t.blk, idx := t.idx, mem := t.mem, race := t.race
    hostLoads := t.hostLoads, trace := t.trace, env := t.env }

/-- These writes, with no operation begun or ended (R118). -/
def FillChanges (s t : State) : Prop :=
  (t.seq = .idle ↔ s.seq = .idle) ∧ FillWrites s t

/-- Where both control points are an operation's, none begins or ends. -/
theorem FillChanges.of_busy {s t : State} (hs : s.seq ≠ .idle) (ht : t.seq ≠ .idle)
    (hwrites : FillWrites s t) : FillChanges s t :=
  ⟨iff_of_false ht hs, hwrites⟩

/-- A received data byte goes to the host buffer or to `csd`, and the block goes on (R151, R260). -/
theorem State.dataByte_changes {s t : State} {d : Dest} (hs : s.seq ≠ .idle)
    (h : s.dataByte d = .next t) : FillChanges s t := by
  cases d
  case csd =>
    cases h
    simp only [State.nextDataByte]
    split <;> exact .of_busy hs nofun rfl
  case buffer =>
    obtain ⟨b, loads, cs, n, rfl, _⟩ := State.dataByte_next h
    exact .of_busy hs (pointAfterByte_ne_idle s.idx) rfl

/-- A received block is followed by END, the next block or CMD12 (R229, R230, R260). -/
theorem State.blockEnd_changes {s : State} (d : Dest) (hs : s.seq ≠ .idle) :
    FillChanges s (s.blockEnd d) := by
  cases d <;> simp only [State.blockEnd, State.blockReceived] <;> repeat' split
  all_goals exact .of_busy hs nofun rfl

/-- A payload byte is followed by the next one, step 4 or the OCR test (R164). -/
theorem State.payloadByte_changes {s : State} (p : Payload) (k : Fin 4) (hs : s.seq ≠ .idle) :
    FillChanges s (s.payloadByte p k) := by
  cases p <;> simp only [State.payloadByte] <;> split <;> exact .of_busy hs nofun rfl

/-- What follows a fill byte writes its own registers only. -/
theorem State.afterFill_changes {s t : State} (h : s.afterFill = .next t) : FillChanges s t := by
  by_cases hidle : s.seq = .idle
  · simp only [State.afterFill, hidle] at h
    cases h
    exact ⟨Iff.rfl, rfl⟩
  · unfold State.afterFill at h
    cases hq : s.seq <;> simp only [hq] at h
    case dataRecv d => exact State.dataByte_changes hidle h
    case crcRecv d second =>
      cases second <;> cases h
      · exact .of_busy hidle nofun rfl
      · exact State.blockEnd_changes d hidle
    case payload p k => cases h; exact State.payloadByte_changes p k hidle
    case endPad k => cases h; cases k <;> exact .of_busy hidle nofun rfl
    case initFill left => cases h; split <;> exact .of_busy hidle nofun rfl
    case cmdPad | cmdPoll | r1Poll | tokPoll | respPoll | wrPoll =>
      cases h
      exact .of_busy hidle nofun rfl
    all_goals cases h; exact ⟨Iff.rfl, rfl⟩

/-- A fill byte's exchange and what follows it write their own registers only. -/
theorem execFill_changes {s t : State} (h : exec .fill s = .next t) : FillChanges s t := by
  obtain ⟨hidle, hwrites⟩ := State.afterFill_changes h
  rw [State.exchange1_seq] at hidle
  rw [State.exchange1_eq] at hwrites
  exact ⟨hidle, hwrites⟩

/-- Settles O20: the registers an exchange of the fill byte may write leave out those named here, and of the
memory and the loads only the byte received for the host buffer changes anything. -/
theorem fillFrame : Obligations.FillFrame := by
  unfold Obligations.FillFrame
  intro s t h
  obtain ⟨hidle, hregs⟩ := execFill_changes h
  have hframe := afterFill_frame h
  have hclock : t.env.clock = s.env.clock := congrArg (·.2.2) (afterFill_clockPart h)
  refine ⟨hidle, ?_, ?_, ?_, ?_, ?_, ?_, ?_, ?_, ?_, ?_, ?_, ?_, ?_, ?_, ?_, ?_, ?_, ?_, ?_, ?_,
    hframe.hostLoads, fun hq => ?_, hframe.turns, hclock, fun a hq ha => ?_, fun a hq => ?_⟩
  case refine_21 =>
    rw [execFill_dataRecv hq] at h
    obtain ⟨b, loads, cs, n, rfl, hloads⟩ := State.dataByte_next h
    simpa using hloads
  case refine_22 =>
    rw [execFill_dataRecv hq] at h
    obtain ⟨b, loads, cs, n, rfl, _⟩ := State.dataByte_next h
    simpa [State.memRead] using s.memRead_memWrite_other s.bufAddr a b ha
  case refine_23 => simp only [State.memRead, hframe.mem hq]
  all_goals rw [hregs]

/-- Settles O21: with no host store to the byte, the byte kept is the one received. -/
theorem receivedByteIsStored : Obligations.ReceivedByteIsStored := by
  unfold Obligations.ReceivedByteIsStored
  intro s hq hwf hadm hnone
  obtain ⟨b, loads, cs, n, hnext, hb, _⟩ :=
    State.dataByte_admitted (s := s.exchange1 Config.fill) (by simpa using hadm)
  obtain rfl := hb (by simpa using hnone)
  refine ⟨_, (execFill_dataRecv hq).trans hnext, ?_, by simp, by simp, ?_⟩
  · have hstored := s.memRead_memWrite_same s.bufAddr s.drawCard.rx hwf
    change State.memRead _ s.bufAddr = _
    simpa only [State.memRead, State.keepByte_mem, State.keepByte_rx, State.exchange1_bufAddr,
      State.exchange1_rx, State.exchange1_mem, State.memWrite_mem] using hstored
  · rw [State.keepByte_seq, State.exchange1_idx, pointAfterByte_eq]; rfl

end Sys2Proof.Machine
end

section
/-! PROOFS. The 512 data bytes of a block, by induction on the bytes to come: what each step needs of its state it
hands on to the next (`Receiving`, `Sending`). -/

namespace Sys2Proof.Machine

/-- Store bytes at addresses, one after another. -/
def Memory.writeEach (m : Memory) : List Word → List Byte → Memory
  | a :: as, b :: bs => Memory.writeEach (m.write a.toNat b) as bs
  | _, _ => m

/-- With no byte to store nothing is stored. -/
theorem Memory.writeEach_nil (m : Memory) (as : List Word) : m.writeEach as [] = m := by
  cases as <;> rfl

/-- Storing bytes leaves every other address alone. -/
theorem Memory.read_writeEach_other {as : List Word} {a : Word} (h : a ∉ as) (m : Memory)
    (bs : List Byte) : (m.writeEach as bs).read a.toNat = m.read a.toNat := by
  induction as generalizing m bs with
  | nil => rfl
  | cons c as ih =>
    obtain ⟨hac, hrest⟩ := not_or.mp (List.mem_cons.not.mp h)
    cases bs with
    | nil => rfl
    | cons b bs =>
      rw [Memory.writeEach, ih hrest]
      exact Memory.read_write_other (fun heq => hac (BitVec.eq_of_toNat_eq heq)) m b

/-- Bytes stored at different addresses are all read back. -/
theorem Memory.map_read_writeEach {as : List Word} {bs : List Byte} {m : Memory} (hd : as.Nodup)
    (hlen : as.length = bs.length) (hwf : m.wf = true) :
    as.map (fun a => (m.writeEach as bs).read a.toNat) = bs := by
  induction as generalizing m bs with
  | nil => exact (List.eq_nil_of_length_eq_zero hlen.symm).symm
  | cons a as ih =>
    obtain ⟨hfresh, hd⟩ := List.nodup_cons.mp hd
    cases bs with
    | nil => cases hlen
    | cons b bs =>
      rw [List.map_cons, Memory.writeEach, Memory.read_writeEach_other hfresh,
        Memory.read_write_same hwf, ih hd (Nat.succ.inj hlen)
          (Memory.write_wfFrom hwf (Nat.zero_le _) a.isLt b)]

/-- The bytes of a block have different addresses (R81). -/
theorem State.blockAddrs_nodup (s : State) : s.blockAddrs.Nodup := by
  refine List.nodup_range.map_on fun i hi j hj hij => ?_
  have hmod := congrArg BitVec.toNat (add_left_cancel hij)
  simp only [List.mem_range, Config.blockSize, BitVec.toNat_ofNat] at hi hj hmod
  omega

@[simp] theorem State.blockAddrs_length (s : State) : s.blockAddrs.length = Config.blockSize := by
  simp [State.blockAddrs]

/-- From data byte `idx` on, the addresses of a block are the next buffer byte's and those after it (R81). -/
theorem State.blockAddrs_drop {s : State} (h : s.idx < Config.blockSize) :
    s.blockAddrs.drop s.idx = s.bufAddr :: s.blockAddrs.drop (s.idx + 1) := by
  rw [List.drop_eq_getElem_cons (by simpa using h)]
  simp [State.blockAddrs, State.bufAddr]

/-- The address of the next data byte is one of the block's (R81). -/
theorem State.bufAddr_mem {s : State} (h : s.idx < Config.blockSize) : s.bufAddr ∈ s.blockAddrs :=
  List.mem_of_mem_drop (State.blockAddrs_drop h ▸ List.mem_cons_self)

/-- The card's next byte, where one is listed (R57). -/
theorem State.drawCard_listed {s : State} {b : Byte} {rest : List Byte} (h : s.env.card = b :: rest) :
    s.drawCard.rx = b ∧ s.drawCard.env.card = rest := by
  unfold State.drawCard
  rw [h]
  exact ⟨rfl, rfl⟩

/-- What a block's addresses depend on. -/
theorem State.blockAddrs_congr {s t : State} (hlatch : t.opLatch = s.opLatch) (hblk : t.blk = s.blk) :
    t.blockAddrs = s.blockAddrs := by
  simp only [State.blockAddrs, hlatch, hblk]

/-- What HOST_MEM_ADMIT depends on (R90). -/
theorem State.admits_congr {s t : State} (h : t.params = s.params) (a : Word) (kind : AccessKind) :
    t.admits a kind = s.admits a kind := by
  simp only [State.admits, h]

/-- Inside a block of a READ_BLOCKS the card's next bytes are `data`, the rest of the block, then `rest`; no host
store races and HOST_MEM_ADMIT admits the block. -/
structure State.Receiving (s : State) (data rest : List Byte) : Prop where
  next : s.coreNext
  point : s.seq = if s.idx < Config.blockSize then .dataRecv .buffer else .crcRecv .buffer false
  left : s.idx + data.length = Config.blockSize
  alone : s.race.hostWrote = []
  card : s.env.card = data ++ rest
  admits : ∀ a ∈ s.blockAddrs, s.admits a .write = true

/-- One step stores the first of these bytes and goes on to the others (R92, R151). -/
theorem State.Receiving.step {s : State} {b : Byte} {data rest : List Byte}
    (h : s.Receiving (b :: data) rest) :
    ∃ t, step s = .next t ∧ t.Receiving data rest ∧ t.blockAddrs = s.blockAddrs ∧
      t.idx = s.idx + 1 ∧ t.mem = s.mem.write s.bufAddr.toNat b := by
  obtain ⟨hnext, hpoint, hleft, halone, hcard, hadmits⟩ := h
  obtain ⟨hrx, hrest⟩ := State.drawCard_listed hcard
  rw [List.length_cons] at hleft
  have hidx : s.idx < Config.blockSize := by omega
  rw [if_pos hidx] at hpoint
  have hadm : (s.exchange1 Config.fill).admits (s.exchange1 Config.fill).bufAddr .write = true := by
    simpa using hadmits _ (State.bufAddr_mem hidx)
  obtain ⟨v, loads, cs, n, hbyte, hv, _⟩ := State.dataByte_admitted hadm
  obtain rfl : v = b := by simpa [halone, racing, hrx] using hv
  have haddrs : ((s.exchange1 Config.fill).keepByte v loads cs n).blockAddrs = s.blockAddrs :=
    State.blockAddrs_congr (by simp) (by simp)
  refine ⟨_, (step_core hnext).trans ((coreStep_dataRecv hpoint).trans hbyte), ?_, haddrs, by simp,
    by simp⟩
  exact
    { next := ⟨by simpa using hnext.1, by simpa using hnext.2⟩
      point := by simp [pointAfterByte_eq]
      left := by simp; omega
      alone := by simpa using halone
      card := by simpa using hrest
      admits := fun a ha => by
        rw [haddrs] at ha
        rw [State.admits_congr (s := s) (by simp)]
        exact hadmits a ha }

/-- As many steps as bytes are to come store them all at the block's addresses from `idx` on, and nothing else
(R92, R151). -/
theorem State.Receiving.run {s : State} {data rest : List Byte} (h : s.Receiving data rest) :
    ∃ t, Host.Core.run Sys2Proof.core data.length s = .next t ∧ t.Receiving [] rest ∧
      t.mem = s.mem.writeEach (s.blockAddrs.drop s.idx) data := by
  induction data generalizing s with
  | nil => exact ⟨s, rfl, h, by rw [Memory.writeEach_nil]⟩
  | cons b data ih =>
    have hidx : s.idx < Config.blockSize := by
      have hleft := h.left
      rw [List.length_cons] at hleft
      omega
    obtain ⟨u, hstep, hu, haddrs, huidx, humem⟩ := h.step
    obtain ⟨t, hrun, ht, hmem⟩ := ih hu
    refine ⟨t, (run_next _ hstep).trans hrun, ht, ?_⟩
    rw [hmem, humem, huidx, haddrs, State.blockAddrs_drop hidx, Memory.writeEach]

/-- Settles O35: the 512 steps store the 512 bytes at the block's addresses, which all differ. -/
theorem receivedBlockIsStored : Obligations.ReceivedBlockIsStored := by
  unfold Obligations.ReceivedBlockIsStored
  intro s data rest hnext hq hidx hwf halone hlen hcard hadmits
  have hreceiving : s.Receiving data rest :=
    { next := hnext, point := by rw [hidx, hq]; rfl, left := by rw [hidx, hlen]; rfl
      alone := halone, card := hcard, admits := hadmits }
  obtain ⟨t, hrun, ht, hmem⟩ := hreceiving.run
  rw [hlen] at hrun
  rw [hidx, List.drop_zero] at hmem
  have hfull : t.idx = Config.blockSize := ht.left
  refine ⟨t, hrun, by simpa [hfull] using ht.point, ht.card, ?_, fun a ha => ?_⟩
  · change s.blockAddrs.map (fun a => t.mem.read a.toNat) = data
    rw [hmem]
    exact Memory.map_read_writeEach s.blockAddrs_nodup (by rw [State.blockAddrs_length, hlen]; rfl) hwf
  · simp only [State.memRead, hmem]
    exact Memory.read_writeEach_other ha s.mem data

/-- The bytes of two stretches of the trace, the newer one first, are the older one's and then the newer's. -/
theorem sentBytes_append (newer older : List BusEvent) :
    sentBytes (newer ++ older) = sentBytes older ++ sentBytes newer := by
  induction newer with
  | nil => simp [sentBytes]
  | cons e newer ih => cases e <;> simp [sentBytes, ih]

/-- Inside a block of a WRITE_BLOCKS no host store races and HOST_MEM_ADMIT admits the block, of which `left` bytes
are to be sent. -/
structure State.Sending (s : State) (left : Nat) : Prop where
  next : s.coreNext
  point : s.seq = if s.idx < Config.blockSize then .dataSend else .crcHi
  count : s.idx + left = Config.blockSize
  alone : s.race.hostWrote = []
  admits : ∀ a ∈ s.blockAddrs, s.admits a .read = true

/-- With no host store to the byte, an admitted data byte of a WRITE_BLOCKS goes out and into the CRC (R223, R225). -/
theorem State.sendDataByte_plain {s : State} (hadm : s.admits s.bufAddr .read = true)
    (hnone : racing s.race.hostWrote s.bufAddr = []) :
    ∃ t r, s.sendDataByte = .next t ∧
      t.seq = (if s.idx + 1 < Config.blockSize then .dataSend else .crcHi) ∧ t.idx = s.idx + 1 ∧
      t.blk = s.blk ∧ t.crc16 = crc16Step s.crc16 (s.memRead s.bufAddr) ∧
      t.trace = .xchg (s.memRead s.bufAddr) r :: s.trace := by
  unfold State.sendDataByte
  rw [if_pos hadm, State.coreLoad_plain hnone]
  refine ⟨_, _, rfl, ?_, ?_, ?_, ?_, State.exchange1_trace _ _⟩
  · rw [State.exchange1_idx]
  · rw [State.exchange1_idx]
  · rw [State.exchange1_blk]
  · rw [State.exchange1_crc16]

/-- One step sends the next byte of the buffer and puts it through the CRC generator (R223, R225). -/
theorem State.Sending.step {s : State} {left : Nat} (h : s.Sending (left + 1)) :
    ∃ t r, step s = .next t ∧ t.Sending left ∧ t.blockAddrs = s.blockAddrs ∧ t.idx = s.idx + 1 ∧
      t.mem = s.mem ∧ t.crc16 = crc16Step s.crc16 (s.memRead s.bufAddr) ∧
      t.trace = .xchg (s.memRead s.bufAddr) r :: s.trace := by
  obtain ⟨hnext, hpoint, hcount, halone, hadmits⟩ := h
  have hidx : s.idx < Config.blockSize := by omega
  rw [if_pos hidx] at hpoint
  obtain ⟨t, r, hsend, htseq, htidx, htblk, htcrc, httrace⟩ := State.sendDataByte_plain
    (hadmits _ (State.bufAddr_mem hidx)) (by simp [halone, racing])
  have hcore : coreStep s = .next t := by simpa only [coreStep, hpoint, micro] using hsend
  have hframe := coreStep_frame hcore
  have haddrs : t.blockAddrs = s.blockAddrs := State.blockAddrs_congr hframe.opLatch htblk
  refine ⟨t, r, (step_core hnext).trans hcore, ?_, haddrs, htidx, hframe.mem (by simp [hpoint]),
    htcrc, httrace⟩
  exact
    { next := ⟨hframe.turns.trans hnext.1, hframe.resetIn.trans hnext.2⟩
      point := by rw [htseq, htidx]
      count := by omega
      alone := hframe.hostWrote.trans halone
      admits := fun a ha => by
        rw [haddrs] at ha
        rw [State.admits_congr hframe.params]
        exact hadmits a ha }

/-- As many steps as bytes are to come send the block's bytes from `idx` on, and nothing else (R223, R225). -/
theorem State.Sending.run {s : State} {left : Nat} (h : s.Sending left) :
    ∃ t events, Host.Core.run Sys2Proof.core left s = .next t ∧ t.Sending 0 ∧
      t.trace = events ++ s.trace ∧ events.length = left ∧
      sentBytes events = (s.blockAddrs.drop s.idx).map s.memRead ∧
      t.crc16 = ((s.blockAddrs.drop s.idx).map s.memRead).foldl crc16Step s.crc16 ∧
      t.mem = s.mem := by
  induction left generalizing s with
  | zero =>
    have hend : s.blockAddrs.drop s.idx = [] :=
      List.drop_eq_nil_of_le (by rw [State.blockAddrs_length]; exact h.count.ge)
    exact ⟨s, [], rfl, h, rfl, rfl, by rw [hend]; rfl, by rw [hend]; rfl, rfl⟩
  | succ left ih =>
    have hidx : s.idx < Config.blockSize := by have := h.count; omega
    obtain ⟨u, r, hstep, hu, haddrs, huidx, humem, hucrc, hutrace⟩ := h.step
    obtain ⟨t, events, hrun, ht, htrace, hlen, hsent, hcrc, hmem⟩ := ih hu
    have hread : u.memRead = s.memRead := by funext a; simp only [State.memRead, humem]
    rw [huidx, haddrs, hread] at hsent hcrc
    refine ⟨t, events ++ [.xchg (s.memRead s.bufAddr) r], (run_next _ hstep).trans hrun, ht, ?_, ?_,
      ?_, ?_, hmem.trans humem⟩
    · rw [htrace, hutrace, List.append_assoc]; rfl
    · rw [List.length_append, hlen]; rfl
    · rw [sentBytes_append, hsent, State.blockAddrs_drop hidx]; rfl
    · rw [hcrc, hucrc, State.blockAddrs_drop hidx, List.map_cons, List.foldl_cons]

/-- Settles O36: the 512 steps send the block's bytes from byte 0 on, through a CRC register that starts at 0. -/
theorem sentBlockIsTheBuffer : Obligations.SentBlockIsTheBuffer := by
  unfold Obligations.SentBlockIsTheBuffer
  intro s hnext hq hidx hcrc0 halone hadmits
  have hsending : s.Sending Config.blockSize :=
    { next := hnext, point := by rw [hidx, hq]; rfl, count := by rw [hidx, Nat.zero_add]
      alone := halone, admits := hadmits }
  obtain ⟨t, events, hrun, ht, htrace, hlen, hsent, hcrc, hmem⟩ := hsending.run
  rw [hidx, List.drop_zero] at hsent hcrc
  rw [hcrc0] at hcrc
  have hfull : t.idx = Config.blockSize := ht.count
  exact ⟨t, events, hrun, by simpa [hfull] using ht.point, htrace, hlen, hsent, hcrc, hmem⟩

end Sys2Proof.Machine
end

section
/-! PROOFS. What host and core draw among at a buffer byte both access. -/

namespace Sys2Proof.Machine

/-- A record of races holds for an address the values it lists with it. -/
theorem mem_racing {races : List (Word × Byte)} {a : Word} {v : Byte} :
    v ∈ racing races a ↔ (a, v) ∈ races := by
  simp [racing]

/-- Where the record holds a value for an address, the host stored to it. -/
theorem exists_of_racing_ne_nil {races : List (Word × Byte)} {a : Word} (h : racing races a ≠ []) :
    ∃ old, (a, old) ∈ races := by
  obtain ⟨old, hold⟩ := List.exists_mem_of_ne_nil _ h
  exact ⟨old, mem_racing.mp hold⟩

/-- The card's bytes for an address are those of its stores. -/
theorem mem_received {stores : List CoreWrite} {a : Word} {v : Byte} :
    v ∈ received stores a ↔ ∃ w ∈ stores, w.addr = a ∧ w.card = v := by
  simp [received, and_assoc]

/-- The bytes replaced at an address are those of its stores. -/
theorem mem_overwritten {stores : List CoreWrite} {a : Word} {v : Byte} :
    v ∈ overwritten stores a ↔ ∃ w ∈ stores, w.addr = a ∧ w.old = v := by
  simp [overwritten, and_assoc]

/-- An address races with an operation while it is in progress and its buffer holds the address (R94, R345). -/
theorem State.racesWith_iff {s : State} {opc : BitVec 4} {a : Word} :
    s.racesWith opc a = true ↔
      s.seq ≠ .idle ∧ s.opLatch.opc = opc ∧ (a - s.opLatch.base).toNat < s.opLatch.len.toNat := by
  simp only [State.racesWith, State.busy, State.inBuffer, Bool.and_eq_true, decide_eq_true_eq, and_assoc]
  rfl

/-- The host's store to a buffer byte the core has not accessed is recorded with the byte it replaced (R94). -/
theorem State.hostStore_recorded {s : State} {a : Word} (v : Byte)
    (h : s.racesWith opcRead a = true ∨ s.racesWith opcWrite a = true)
    (hd : s.race.done ≤ s.bufOffset a) :
    (s.hostStore a v).race.hostWrote = (a, s.memRead a) :: s.race.hostWrote := by
  have hnot : ¬ s.bufOffset a < s.race.done := Nat.not_lt.mpr hd
  simp [State.hostStore, hnot, hd, Bool.or_eq_true_iff.mpr h]

/-- The core's store leaves the card's byte, or the byte of a host that stored to it (R345). -/
theorem State.coreStore_memRead {s t : State} {a : Word} {v : Byte} (hwf : s.mem.wf = true)
    (h : s.coreStore a v = .next t) :
    t.memRead a = v ∨ (∃ old, (a, old) ∈ s.race.hostWrote) ∧ t.memRead a = s.memRead a := by
  obtain ⟨_, b, loads, cs, n, hb, rfl, _⟩ := State.coreStore_next h
  have hread : State.memRead (((s.setDraws cs n).stored a v b).setLoads loads) a = b :=
    State.memRead_memWrite_same (s.setDraws cs n) a b hwf
  rw [hread]
  exact hb.imp_right fun ⟨hrace, hkeep⟩ => ⟨exists_of_racing_ne_nil hrace, hkeep⟩

/-- The core's store counts one more byte, records what it replaced and the card's byte, and settles the waiting
loads (R94, R345). -/
theorem State.coreStore_records {s t : State} {a : Word} {v : Byte}
    (h : s.coreStore a v = .next t) :
    t.race.done = s.race.done + 1 ∧
      t.race.coreWrote = { addr := a, old := s.memRead a, card := v } :: s.race.coreWrote ∧
      List.Forall₂ (HostLoad.SettlesTo a v) s.hostLoads t.hostLoads := by
  obtain ⟨_, b, loads, cs, n, _, rfl, hloads⟩ := State.coreStore_next h
  exact ⟨rfl, rfl, hloads⟩

/-- Settles O38: each access is read off its law, with the records' members in place of the draws' lists. -/
theorem racesDrawOnlyRacingValues : Obligations.RacesDrawOnlyRacingValues := by
  unfold Obligations.RacesDrawOnlyRacingValues
  intro s a v off reading writing
  have hreading : s.racesWith opcRead a = true ↔ reading := State.racesWith_iff
  have hwriting : s.racesWith opcWrite a = true ↔ writing := State.racesWith_iff
  refine ⟨?_, fun t hwf hstore => ⟨State.coreStore_memRead hwf hstore, State.coreStore_records hstore⟩,
    fun hwf hread hdone => ?_, fun hwf hnot => ?_, fun hrace hdone => ?_, fun hread => ?_,
    fun hnot => ?_⟩
  · have hload := (s.coreLoad_spec a).1
    rwa [List.mem_cons, mem_racing] at hload
  · have hstore := State.hostStore_received v hwf (hreading.mpr hread) hdone
    rw [List.mem_cons, mem_received] at hstore
    simpa only [eq_comm (a := (s.hostStore a v).memRead a)] using hstore
  · exact State.hostStore_plain v hwf (by rwa [hreading])
  · exact State.hostStore_recorded v (by rwa [hreading, hwriting]) hdone
  · obtain ⟨b, cs, n, hb, hload⟩ := State.hostLoad_racing (hreading.mpr hread)
    refine ⟨b, ?_, by rw [hload]; rfl⟩
    rw [List.mem_cons, List.mem_append, mem_overwritten, mem_received] at hb
    rcases hb with hb | ⟨w, hw, haddr, hb⟩ | ⟨w, hw, haddr, hb⟩
    · exact .inl hb
    · exact .inr ⟨w, hw, haddr, .inl hb.symm⟩
    · exact .inr ⟨w, hw, haddr, .inr hb.symm⟩
  · rw [State.hostLoad_plain (by rwa [← Bool.not_eq_true, hreading])]
    rfl

end Sys2Proof.Machine
end

section
/-! PROOFS. The encodings: what is encoded is decoded again, a frame is the encoding of the one instruction it
decodes to, and an OP word's instruction is its bits 3:0. -/

namespace Sys2Proof

/-- A frame decodes by its index, argument and CRC-7 field (R104, R106). -/
theorem decode_encodeFrame (c : Cmd) (arg : Word) (crc : BitVec 7) :
    decode (encodeFrame c arg crc) = decodeCommand (Machine.cmdIndex c) arg crc :=
  decodeFrame_head _ _ _

/-- A frame that R106 fixes whole decodes by its index and argument, with the generated CRC-7. -/
theorem decode_encodeFixed (c : Cmd) (arg : Word) :
    decode (encodeFixed c arg) =
      decodeCommand (Machine.cmdIndex c) arg (Machine.frameCrc (Machine.cmdIndex c) arg) :=
  decode_encodeFrame _ _ _

/-- A reserved OP word's low bit is read back (R102). -/
theorem decode_encode_reserved67 (low : BitVec 1) :
    decode (encode (.reserved67 low)) = .ok (.reserved67 low) := by
  revert low; decide

/-- A reserved OP word's low three bits are read back (R102). -/
theorem decode_encode_reserved8F (low : BitVec 3) :
    decode (encode (.reserved8F low)) = .ok (.reserved8F low) := by
  revert low; decide

/-- The status of a received R1 is read back (R108). -/
theorem decode_encode_r1Recognise (status : BitVec 7) :
    decode (encode (.r1Recognise status)) = .ok (.r1Recognise status) := by
  revert status; decide

/-- The ignored high bits of a received data response are read back (R111). -/
theorem decode_encode_dataResponseAccepted (high : BitVec 3) :
    decode (encode (.dataResponseAccepted high)) = .ok (.dataResponseAccepted high) := by
  revert high; decide

/-- Settles O43: a frame by its index, a row with a small field by the field's values, any other row as it
stands. -/
theorem decodeInvertsEncode : Obligations.DecodeInvertsEncode := by
  unfold Obligations.DecodeInvertsEncode
  intro i
  cases i
  case reserved67 low => exact decode_encode_reserved67 low
  case reserved8F low => exact decode_encode_reserved8F low
  case r1Recognise status => exact decode_encode_r1Recognise status
  case dataResponseAccepted high => exact decode_encode_dataResponseAccepted high
  case cmd17 | cmd18 | cmd24 | cmd25 => exact decode_encodeFrame _ _ _
  case cmd0 | cmd8 | cmd9 | cmd12 | cmd16 | cmd41 | cmd55 | cmd58 =>
    exact (decode_encodeFixed _ _).trans (decodeFixed_own _ _ _)
  all_goals rfl

/-- An instruction stands for the frame with this index, argument and CRC-7 field: the frame is its encoding, and
it is well-formed exactly if the field is the CRC-7 of the first five bytes (R104). -/
def Instr.StandsFor (i : Instr) (index : BitVec 6) (arg : Word) (crc : BitVec 7) : Prop :=
  encode i = .frame (Machine.frameHead index arg ++ [Machine.frameByte5 crc]) ∧
    (i.WellFormed = true ↔ crc = Machine.frameCrc index arg)

/-- A command whose frame R106 fixes is accepted with that argument and its CRC-7 only. -/
theorem decodeFixed_ok {c : Cmd} {want arg : Word} {crc : BitVec 7} {i j : Instr}
    (h : decodeFixed c want arg crc i = .ok j) :
    arg = want ∧ crc = Machine.frameCrc (Machine.cmdIndex c) want ∧ i = j := by
  unfold decodeFixed at h
  split at h
  · cases h
  · next harg =>
    split at h
    · cases h
    · next hcrc => exact ⟨not_not.mp harg, not_not.mp hcrc, Except.ok.inj h⟩

/-- A command whose frame R106 fixes stands for the frame it is accepted with. -/
theorem Instr.StandsFor.of_decodeFixed {c : Cmd} {want arg : Word} {index : BitVec 6} {crc : BitVec 7}
    {i j : Instr} (h : decodeFixed c want arg crc i = .ok j)
    (henc : encode i = encodeFixed c want) (hindex : index.toNat = (Machine.cmdIndex c).toNat)
    (hwf : i.WellFormed = true) : j.StandsFor index arg crc := by
  obtain ⟨rfl, rfl, rfl⟩ := decodeFixed_ok h
  obtain rfl := BitVec.eq_of_toNat_eq hindex
  exact ⟨henc, iff_of_true hwf rfl⟩

/-- An address-carrying command stands for the frame with its address and CRC-7 field. -/
theorem Instr.StandsFor.of_address {c : Cmd} {arg : Word} {index : BitVec 6} {crc : BitVec 7}
    {i j : Instr} (h : Except.ok (ε := Reject) i = .ok j)
    (henc : encode i = encodeFrame c arg crc) (hindex : index.toNat = (Machine.cmdIndex c).toNat)
    (hwf : i.WellFormed = (crc == Machine.frameCrc (Machine.cmdIndex c) arg)) :
    j.StandsFor index arg crc := by
  obtain rfl := Except.ok.inj h
  obtain rfl := BitVec.eq_of_toNat_eq hindex
  exact ⟨henc, by rw [hwf, beq_iff_eq]⟩

/-- Each of the twelve indices names one command, and no other index is accepted (R105, R106). -/
theorem decodeCommand_standsFor {index : BitVec 6} {arg : Word} {crc : BitVec 7} {i : Instr}
    (h : decodeCommand index arg crc = .ok i) : i.StandsFor index arg crc := by
  unfold decodeCommand at h
  split at h
  case h_6 hindex | h_7 hindex | h_8 hindex | h_9 hindex => exact .of_address h rfl hindex rfl
  case h_13 => cases h
  all_goals next hindex => exact .of_decodeFixed h rfl hindex rfl

/-- A byte with the start and transmission bits is frame byte 0 of its index (R104). -/
theorem frameByte0_of_start {b : Byte} (h : b.extractLsb' 6 2 = 1#2) :
    Machine.frameByte0 (b.extractLsb' 0 6) = b := by
  revert b; decide

/-- A byte with the end bit is frame byte 5 of its CRC-7 field (R104). -/
theorem frameByte5_of_end {b : Byte} (h : b.extractLsb' 0 1 = 1#1) :
    Machine.frameByte5 (b.extractLsb' 1 7) = b := by
  revert b; decide

/-- Bytes that decode as a frame are the six bytes of the one frame their instruction stands for (R104). -/
theorem decodeFrame_ok {bytes : List Byte} {i : Instr} (h : decodeFrame bytes = .ok i) :
    ∃ b0 b1 b2 b3 b4 b5 : Byte, bytes = [b0, b1, b2, b3, b4, b5] ∧
      Machine.frameHead (b0.extractLsb' 0 6) (b1 ++ b2 ++ b3 ++ b4) = [b0, b1, b2, b3, b4] ∧
      Machine.frameByte5 (b5.extractLsb' 1 7) = b5 ∧
      i.StandsFor (b0.extractLsb' 0 6) (b1 ++ b2 ++ b3 ++ b4) (b5.extractLsb' 1 7) := by
  unfold decodeFrame at h
  split at h
  case h_1 b0 b1 b2 b3 b4 b5 =>
    split at h
    · cases h
    · next hstart =>
      split at h
      · cases h
      · next hend =>
        refine ⟨b0, b1, b2, b3, b4, b5, rfl, ?_, frameByte5_of_end (not_not.mp hend),
          decodeCommand_standsFor h⟩
        rw [frameHead_bytes, frameByte0_of_start (not_not.mp hstart)]
  case h_2 => cases h

/-- Settles O44: the frame its instruction stands for has the six bytes that were decoded. -/
theorem frameHasOneMeaning : Obligations.FrameHasOneMeaning := by
  unfold Obligations.FrameHasOneMeaning
  intro bytes i h
  obtain ⟨b0, b1, b2, b3, b4, b5, rfl, hhead, hlast, henc, hwf⟩ := decodeFrame_ok h
  refine ⟨?_, b0, b1, b2, b3, b4, b5, rfl, ?_⟩
  · rw [henc, hhead, hlast]
    rfl
  · rw [hwf, Machine.frameCrc, hhead]

/-- The instruction of an OP word is encoded as the word's bits 3:0 (R101, R102). -/
theorem encode_decodeOp (w : Word) : encode (decodeOp w) = .op ((w.extractLsb' 0 4).setWidth 32) := by
  have hlow1 : w.extractLsb' 0 1 = (w.extractLsb' 0 4).extractLsb' 0 1 := by simp
  have hlow3 : w.extractLsb' 0 3 = (w.extractLsb' 0 4).extractLsb' 0 3 := by simp
  unfold decodeOp
  rw [hlow1, hlow3]
  generalize w.extractLsb' 0 4 = opc
  revert opc
  decide

/-- Settles O45: the instructions' encodings are the two words' bits 3:0, and no two instructions have one
encoding, since it decodes again. -/
theorem opWordIgnoresHighBits : Obligations.OpWordIgnoresHighBits := by
  unfold Obligations.OpWordIgnoresHighBits
  refine fun w v => ⟨fun hlow => ?_, fun hsame => ?_⟩
  · have henc : encode (decodeOp w) = encode (decodeOp v) := by
      rw [encode_decodeOp, encode_decodeOp, hlow]
    have hdec := decodeInvertsEncode (decodeOp w)
    rw [henc, decodeInvertsEncode (decodeOp v)] at hdec
    exact (Except.ok.inj hdec).symm
  · have hop := congrArg encode hsame
    rw [encode_decodeOp, encode_decodeOp] at hop
    have hopc := congrArg (BitVec.setWidth 4) (Encoded.op.inj hop)
    simpa using hopc

/-- Settles O42: the decoder is run on the words. -/
theorem wordsDecode : Obligations.WordsDecode := by
  unfold Obligations.WordsDecode
  decide +kernel

/-- Settles O41: the framer and both generators are run. -/
theorem framesAndCheckValues : Obligations.FramesAndCheckValues := by
  unfold Obligations.FramesAndCheckValues
  decide +kernel

end Sys2Proof
end

section
/-! PROOFS. The received bytes: the fill byte's exchange and what it leaves of the bus, and the tests of the R1
poll, the data response and the ready wait. -/

namespace Sys2Proof.Machine

/-- From `s` to `t` no byte was exchanged: the received byte, the trace and the card's bytes stay. -/
structure BusKept (s t : State) : Prop where
  rx : t.rx = s.rx
  trace : t.trace = s.trace
  card : t.env.card = s.env.card

/-- A data byte's store or its place in `csd` exchanges nothing (R151, R260). -/
theorem State.dataByte_answers {s : State} {d : Dest}
    (hadm : d = .buffer → s.admits s.bufAddr .write = true) :
    ∃ t, s.dataByte d = .next t ∧ BusKept s t := by
  cases d
  case csd => exact ⟨_, rfl, rfl, rfl, rfl⟩
  case buffer =>
    obtain ⟨b, loads, cs, n, hnext, _⟩ := State.dataByte_admitted (hadm rfl)
    exact ⟨_, hnext, rfl, rfl, rfl⟩

/-- A received block's end exchanges nothing (R229, R230, R260). -/
theorem State.blockEnd_bus (s : State) (d : Dest) : BusKept s (s.blockEnd d) := by
  cases d <;> simp only [State.blockEnd, State.blockReceived] <;> repeat' split
  all_goals exact ⟨rfl, rfl, rfl⟩

/-- Keeping a payload byte exchanges nothing (R164). -/
theorem State.payloadByte_bus (s : State) (p : Payload) (k : Fin 4) :
    BusKept s (s.payloadByte p k) := by
  cases p <;> simp only [State.payloadByte] <;> split <;> exact ⟨rfl, rfl, rfl⟩

/-- What follows a fill byte's exchange answers at every control point, but at a data byte whose address
HOST_MEM_ADMIT refuses, and exchanges nothing more (R118, R151). -/
theorem State.afterFill_answers {s : State}
    (hadm : s.seq = .dataRecv .buffer → s.admits s.bufAddr .write = true) :
    ∃ t, s.afterFill = .next t ∧ BusKept s t := by
  unfold State.afterFill
  cases hq : s.seq
  case dataRecv d => exact State.dataByte_answers fun hd => hadm (hd ▸ hq)
  case crcRecv d second =>
    cases second
    · exact ⟨_, rfl, rfl, rfl, rfl⟩
    · exact ⟨_, rfl, s.blockEnd_bus d⟩
  case payload p k => exact ⟨_, rfl, s.payloadByte_bus p k⟩
  case endPad k => cases k <;> exact ⟨_, rfl, rfl, rfl, rfl⟩
  all_goals exact ⟨_, rfl, rfl, rfl, rfl⟩

/-- Settles O19: the exchange, then what follows it, which answers but at a refused address. -/
theorem fillCompletes : Obligations.FillCompletes := by
  unfold Obligations.FillCompletes
  refine fun s => ⟨fun hadm => ?_, fun hq hrefused => ?_⟩
  · obtain ⟨t, hnext, hrx, htrace, hcard⟩ :=
      State.afterFill_answers (s := s.exchange1 Config.fill) (by simpa using hadm)
    rw [State.exchange1_rx] at hrx
    rw [State.exchange1_trace] at htrace
    rw [State.exchange1_env] at hcard
    refine ⟨t, hnext, hrx ▸ htrace, fun b rest hlisted => ?_⟩
    obtain ⟨hb, hrest⟩ := State.drawCard_listed hlisted
    exact ⟨hrx.trans hb, hcard.trans hrest⟩
  · rw [execFill_dataRecv hq, State.dataByte_refused (by simpa using hrefused)]
    simp

/-- A fill byte at a payload byte is the exchange and the byte's keeping (R164). -/
theorem execFill_payload {s : State} {p : Payload} {k : Fin 4} (hq : s.seq = .payload p k) :
    exec .fill s = .next ((s.exchange1 Config.fill).payloadByte p k) := by
  simp only [exec, execFill, State.afterFill, State.exchange1_seq, hq]

/-- A fill byte at a CSD byte is the exchange and the byte's keeping (R260). -/
theorem execFill_dataRecv_csd {s : State} (hq : s.seq = .dataRecv .csd) :
    exec .fill s = (s.exchange1 Config.fill).dataByte .csd := by
  simp only [exec, execFill, State.afterFill, State.exchange1_seq, hq]

/-- Settles O22: each byte is kept or discarded by its exchange, and the fourth or sixteenth is the last. -/
theorem payloadAndCsdBytes : Obligations.PayloadAndCsdBytes := by
  unfold Obligations.PayloadAndCsdBytes
  intro s k b rest hcard
  obtain ⟨hrx, _⟩ := State.drawCard_listed hcard
  refine ⟨fun hq => ⟨_, execFill_payload hq, ?_⟩, fun hq => ⟨_, execFill_payload hq, ?_⟩,
    fun hq _ => ⟨_, execFill_dataRecv_csd hq, ?_⟩⟩
  · by_cases hk : k.val + 1 < 4
    · simp [State.payloadByte, hk, hrx, show k.val ≠ 3 by omega]
    · simp [State.payloadByte, hk, hrx]
  · by_cases hk : k.val + 1 < 4
    · simp [State.payloadByte, hk, show k.val ≠ 3 by omega]
    · simp [State.payloadByte, State.startAttempt, hk]
  · simp [State.nextDataByte, Dest.size, Config.csdSize, hrx]

/-- Settles O12: the core's step at the test, with the poll's budget of 100. -/
theorem r1CollectorTests : Obligations.R1CollectorTests := by
  unfold Obligations.R1CollectorTests
  refine fun s c hnext hq => ⟨fun hbit => ?_, fun hbit => ?_⟩ <;>
    rw [step_core hnext] <;> simp only [coreStep, hq, hbit]
  · simp only [if_true, State.noR1, hq]
    rfl
  · rfl

/-- Settles O23: the meaning of R1_RECOGNISE at the R1 test. -/
theorem r1RecogniseEndsThePoll : Obligations.R1RecogniseEndsThePoll := by
  unfold Obligations.R1RecogniseEndsThePoll
  intro s c status hq
  simp only [exec, execR1Recognise, hq]

/-- The low five bits of a byte, as a field and under the spec's mask (R111). -/
theorem lowFiveBits_eq_accepted_iff (d : Byte) :
    d.extractLsb' 0 5 = Config.dataAccepted ↔ d &&& 0x1F#8 = 0x05#8 := by
  revert d; decide

/-- Settles O24: the core's two steps at the data response, and the meaning of the recognised byte. -/
theorem dataResponseTests : Obligations.DataResponseTests := by
  unfold Obligations.DataResponseTests
  refine fun s high => ⟨fun hnext hq => ?_, fun hnext hq => ?_, fun hq => ?_⟩
  · rw [step_core hnext]
    simp only [coreStep, hq, State.afterFill, State.exchange1_seq]
    rfl
  · rw [step_core hnext]
    simp only [coreStep, hq, State.rejectedBlock, lowFiveBits_eq_accepted_iff]
    split <;> rfl
  · simp only [exec, execDataResponseAccepted, hq]
    rfl

/-- Settles O25: the meaning of CARD_READY at the two ready waits; the number of blocks is the latch's. -/
theorem cardReadyEndsTheWait : Obligations.CardReadyEndsTheWait := by
  unfold Obligations.CardReadyEndsTheWait
  refine fun s c arg => ⟨fun hq => ?_, fun hq => ?_⟩ <;> simp only [exec, execCardReady, hq] <;> rfl

end Sys2Proof.Machine
end

section
/-! PROOFS. The bus primitives, the end of an operation, and the events a step adds to the wire trace. -/

namespace Sys2Proof.Machine

/-- With no card byte listed the exchange is counted, and the free inputs stay otherwise (R57, R142). -/
theorem State.drawCard_free_env {s : State} (h : s.env.card = []) :
    s.drawCard.env = { s.env with cardDrawn := s.env.cardDrawn + 1 } := by
  simp only [State.drawCard, h]

/-- Settles O14: an exchange with a listed card byte and one without; the other primitives are written out. -/
theorem transportPrimitives : Obligations.TransportPrimitives := by
  unfold Obligations.TransportPrimitives
  refine fun s t f => ⟨?_, fun b rest hlisted => ?_, fun hfree => ?_, rfl, rfl, rfl⟩
  · rw [State.exchange1_rx, State.exchange1_env]
    exact s.exchange1_eq t
  · rw [State.exchange1_listed t hlisted]
    exact ⟨rfl, rfl⟩
  · rw [State.exchange1_env, State.drawCard_free_env hfree]

/-- Settles O34: the core's steps at the three points; the padding exchange goes on to `finish`. -/
theorem endAndFinish : Obligations.EndAndFinish := by
  unfold Obligations.EndAndFinish
  refine fun s k code hnext => ⟨fun hq => ?_, fun hq => ?_, fun hq => ?_⟩ <;>
    rw [step_core hnext] <;> simp only [coreStep, hq]
  · simp only [micro, hq, State.deselect, State.setSeq]
  · simp only [State.afterFill, State.exchange1_seq, hq, State.afterEnd, State.setSeq, Config.fill]
  · simp only [micro, hq, State.finish]

/-- A listed turn adds at most one event to the trace: the core's step does, and no other turn is on the bus
(R92, R141). -/
theorem turnStep_trace {s t : State} {turn : Turn} (h : turnStep s turn = .next t) :
    t.trace = s.trace ∨ ∃ e, t.trace = e :: s.trace := by
  rcases turnStep_cases h with ⟨_, hcore⟩ | ⟨level, _, rfl⟩ | ⟨w, hexec⟩ | hhost
  · exact (coreStep_frame hcore).trace
  · exact .inl rfl
  · obtain ⟨_, _, _, _, _, _, _, hspec, _⟩ := exec_decodeOp_spec s w
    rw [hspec] at hexec
    cases hexec
    exact .inl rfl
  · obtain ⟨_, _, _, _, _, _, _, _, _, _, rfl⟩ := hhost
    exact .inl rfl

/-- Settles O53: a step is a listed turn, which leaves the trace as taking it from the schedule does, the core's
step, or nothing. -/
theorem stepAddsAtMostOneEvent : Obligations.StepAddsAtMostOneEvent := by
  unfold Obligations.StepAddsAtMostOneEvent
  intro s t hs
  rcases step_cases s with ⟨turn, rest, _, hstep⟩ | ⟨_, hstep⟩ | ⟨_, _, hstep⟩ <;> rw [hstep] at hs
  · have hdrop : (s.dropTurn rest).trace = s.trace := rfl
    exact hdrop ▸ turnStep_trace hs
  · exact (coreStep_frame hs).trace
  · cases hs
    exact .inl rfl

end Sys2Proof.Machine
end

section
/-! SUPPORT. The core's steps of `send_command` and of the two ready waits, one equation per control point, and how
a run is made of two. -/

namespace Sys2Proof.Machine

/-- A run goes on from where its first part ends. -/
theorem run_add {m : Nat} {s t : State} (n : Nat) (h : Host.Core.run Sys2Proof.core m s = .next t) :
    Host.Core.run Sys2Proof.core (m + n) s = Host.Core.run Sys2Proof.core n t := by
  induction m generalizing s with
  | zero =>
    cases h
    rw [Nat.zero_add]
  | succ m ih =>
    obtain ⟨u, hstep, hrest⟩ := run_succ_next h
    rw [Nat.add_right_comm, run_next _ hstep, ih hrest]

section
variable {s : State} {c : Cmd} {arg : Word} (hnext : s.coreNext)
include hnext

/-- A command's call is its `deselect()` (R163). -/
theorem step_issue (hq : s.seq = .issue c) : step s = .next (s.sendCommand c (s.cmdArg c)) := by
  rw [step_core hnext]
  simp only [coreStep, hq]

/-- `pad()` is one exchange of the fill byte (R146, R163). -/
theorem step_cmdPad (hq : s.seq = .cmdPad c arg) :
    step s = .next ((s.exchange1 Config.fill).setSeq (.cmdSelect c arg)) := by
  rw [step_core hnext]
  simp only [coreStep, hq, State.afterFill, State.exchange1_seq]

/-- `select()` (R163). -/
theorem step_cmdSelect (hq : s.seq = .cmdSelect c arg) :
    step s = .next (s.select.setSeq (.cmdT0 c arg)) := by
  rw [step_core hnext]
  simp only [coreStep, hq, micro]

/-- The ready wait before a frame samples the clock (R162). -/
theorem step_cmdT0 (hq : s.seq = .cmdT0 c arg) :
    step s = .next (s.sampleT0.setSeq (.cmdPoll c arg)) := by
  rw [step_core hnext]
  simp only [coreStep, hq, micro]

/-- A poll of the ready wait before a frame is one exchange of the fill byte (R162). -/
theorem step_cmdPoll (hq : s.seq = .cmdPoll c arg) :
    step s = .next ((s.exchange1 Config.fill).setSeq (.cmdReady c arg)) := by
  rw [step_core hnext]
  simp only [coreStep, hq, State.afterFill, State.exchange1_seq]

/-- 0xFF ends the ready wait before a frame (R112, R162). -/
theorem step_cmdReady_ready (hq : s.seq = .cmdReady c arg) (hrx : s.rx = Config.ready) :
    step s = .next (s.setSeq (.cmdFrame c arg)) := by
  rw [step_core hnext]
  simp only [coreStep, hq, if_pos hrx]

/-- Any other byte polls again until the time is up (R162, R163). -/
theorem step_cmdReady_busy (hq : s.seq = .cmdReady c arg) (hrx : s.rx ≠ Config.ready) :
    step s = .next (s.readClock.setSeq (if s.readClock.elapsed s.params.tReadyCmdMs then
      .got c .timeout else .cmdPoll c arg)) := by
  rw [step_core hnext]
  simp only [coreStep, hq, if_neg hrx, State.notReady, State.readClock_params]

/-- `build_frame` is a step of its own (R161). -/
theorem step_cmdFrame (hq : s.seq = .cmdFrame c arg) : step s = .next (s.assembleFrame c arg) := by
  rw [step_core hnext]
  simp only [coreStep, hq, micro]

/-- A frame byte goes out (R149, R163). -/
theorem step_cmdSend {i : Fin 6} (hq : s.seq = .cmdSend c i) :
    step s = .next (s.sendFrameByte c i) := by
  rw [step_core hnext]
  simp only [coreStep, hq, micro]

/-- A poll of the R1 collector is one exchange of the fill byte, and counts (R165). -/
theorem step_r1Poll (hq : s.seq = .r1Poll c) :
    step s = .next { s.exchange1 Config.fill with r1Tries := s.r1Tries + 1, seq := .r1Test c } := by
  rw [step_core hnext]
  simp only [coreStep, hq, State.afterFill, State.exchange1_seq, State.exchange1_r1Tries]

/-- The ready wait after a block samples the clock (R162, R225). -/
theorem step_wrT0 (hq : s.seq = .wrT0) : step s = .next (s.sampleT0.setSeq .wrPoll) := by
  rw [step_core hnext]
  simp only [coreStep, hq, micro]

/-- A poll of the ready wait after a block is one exchange of the fill byte (R162, R225). -/
theorem step_wrPoll (hq : s.seq = .wrPoll) :
    step s = .next ((s.exchange1 Config.fill).setSeq .wrReady) := by
  rw [step_core hnext]
  simp only [coreStep, hq, State.afterFill, State.exchange1_seq]

/-- 0xFF ends the ready wait after a block (R112, R162). -/
theorem step_wrReady_ready (hq : s.seq = .wrReady) (hrx : s.rx = Config.ready) :
    step s = .next s.blockSent := by
  rw [step_core hnext]
  simp only [coreStep, hq, if_pos hrx]

/-- Any other byte polls again until the time is up (R162, R225). -/
theorem step_wrReady_busy (hq : s.seq = .wrReady) (hrx : s.rx ≠ Config.ready) :
    step s = .next (s.readClock.setSeq (if s.readClock.elapsed s.params.tReadyWriteMs then
      .endDeselect (.blockIo .writeTimeout) else .wrPoll)) := by
  rw [step_core hnext]
  simp only [coreStep, hq, if_neg hrx, State.notReady, State.readClock_params]
  split <;> rfl

end

/-- The test of the time at a clock read just made, over the state before it (R162). -/
theorem State.readClock_elapsed_iff (s : State) (limit : Word) :
    s.readClock.elapsed limit = true ↔ limit.toNat ≤ (s.readClock.nowMs - s.t0).toNat := by
  rw [State.elapsed, decide_eq_true_eq, State.readClock_t0]

/-- The argument of an address command is the translated block number (R106, R220). -/
theorem State.cmdArg_of_address (s : State) {c : Cmd}
    (h : c = .cmd17 ∨ c = .cmd18 ∨ c = .cmd24 ∨ c = .cmd25) :
    s.cmdArg c = cardAddr s.blockScale s.opLatch.bn := by
  rcases h with rfl | rfl | rfl | rfl <;> rfl

end Sys2Proof.Machine
end

section
/-! PROOFS. How the commands start, and the two ready waits. -/

namespace Sys2Proof.Machine

/-- Settles O8: each row of INIT is `send_command` with its argument of R106. -/
theorem initCommandsStart : Obligations.InitCommandsStart := by
  unfold Obligations.InitCommandsStart
  exact fun _ => ⟨rfl, rfl, rfl, rfl, rfl, rfl⟩

/-- Settles O9: each row is `send_command`; in a step of the core an address command's argument is `card_addr`. -/
theorem transferCommandsStart : Obligations.TransferCommandsStart := by
  unfold Obligations.TransferCommandsStart
  refine fun s addr crc => ⟨rfl, rfl, rfl, rfl, rfl, rfl, fun c hnext hq hc => ?_⟩
  rw [step_issue hnext hq, s.cmdArg_of_address hc]
  rfl

/-- Settles O11: the steps of the two waits, the tests of the time over the state before the clock read. -/
theorem readyWaitTests : Obligations.ReadyWaitTests := by
  unfold Obligations.ReadyWaitTests
  refine fun s c arg hnext => ⟨step_cmdT0 hnext, step_cmdPoll hnext, step_cmdReady_ready hnext,
    fun hq hrx => ?_, step_wrT0 hnext, step_wrPoll hnext, step_wrReady_ready hnext,
    fun hq hrx => ?_⟩
  · rw [step_cmdReady_busy hnext hq hrx]
    simp only [State.readClock_elapsed_iff, State.setSeq]
  · rw [step_wrReady_busy hnext hq hrx]
    simp only [State.readClock_elapsed_iff, State.setSeq]

end Sys2Proof.Machine
end

section
/-! PROOFS. `send_command` as a run: its call, the ready wait, the frame's bytes and the R1 poll, each a run from
one control point to another (`BusAt`), the frame by induction on its bytes and the poll by induction on the
card's answers. -/

namespace Sys2Proof.Machine

/-- The core's turn comes next, at the control point `q`, with these next bytes of the card and this trace. -/
structure State.BusAt (s : State) (q : Seq) (card : List Byte) (trace : List BusEvent) : Prop where
  next : s.coreNext
  point : s.seq = q
  card : s.env.card = card
  trace : s.trace = trace

/-- What `send_command` leaves alone from its frame on: the select line, the frame and the host memory. -/
structure FrameKept (s t : State) : Prop where
  csN : t.csN = s.csN
  cmdFrame : t.cmdFrame = s.cmdFrame
  mem : t.mem = s.mem

theorem FrameKept.trans {s t u : State} (hst : FrameKept s t) (htu : FrameKept t u) :
    FrameKept s u :=
  ⟨htu.csN.trans hst.csN, htu.cmdFrame.trans hst.cmdFrame, htu.mem.trans hst.mem⟩

variable {s : State} {c : Cmd} {arg : Word} {q : Seq} {b : Byte} {card rest answers : List Byte}
  {trace : List BusEvent}

/-- An exchange takes the card's next byte and is an event (R142). -/
theorem State.BusAt.exchange1 (h : s.BusAt q (b :: card) trace) (out : Byte) :
    (s.exchange1 out).BusAt q card (.xchg out b :: trace) := by
  rw [State.exchange1_listed out h.card]
  exact { h with card := rfl, trace := congrArg _ h.trace }

theorem State.BusAt.exchange1_rx (h : s.BusAt q (b :: card) trace) (out : Byte) :
    (s.exchange1 out).rx = b := by
  rw [State.exchange1_listed out h.card]

/-- An exchange keeps them (R142). -/
theorem State.exchange1_kept (s : State) (out : Byte) : FrameKept s (s.exchange1 out) :=
  ⟨s.exchange1_csN out, s.exchange1_cmdFrame out, s.exchange1_mem out⟩

/-- The call of a command: deselect, pad, select (R163). -/
theorem State.BusAt.run_call (h : s.BusAt (.issue c) (b :: card) trace) :
    ∃ t, Host.Core.run Sys2Proof.core 3 s = .next t ∧
      t.BusAt (.cmdT0 c (s.cmdArg c)) card
        (.cs false :: .xchg Config.fill b :: .cs true :: trace) ∧
      t.csN = false ∧ t.mem = s.mem := by
  have hpad : (s.sendCommand c (s.cmdArg c)).BusAt (.cmdPad c (s.cmdArg c)) (b :: card)
      (.cs true :: trace) :=
    { h with point := rfl, trace := congrArg _ h.trace }
  have hexchanged := hpad.exchange1 Config.fill
  have hselect : (((s.sendCommand c (s.cmdArg c)).exchange1 Config.fill).setSeq
      (.cmdSelect c (s.cmdArg c))).BusAt (.cmdSelect c (s.cmdArg c)) card
      (.xchg Config.fill b :: .cs true :: trace) :=
    { hexchanged with point := rfl }
  refine ⟨_, (run_next 2 (step_issue h.next h.point)).trans <|
    (run_next 1 (step_cmdPad hpad.next hpad.point)).trans <|
    run_next 0 (step_cmdSelect hselect.next hselect.point), ?_, rfl, ?_⟩
  · exact { hselect with point := rfl, trace := congrArg _ hselect.trace }
  · exact ((s.sendCommand c (s.cmdArg c)).exchange1_kept Config.fill).mem

/-- The ready wait before a frame, on a card that answers 0xFF to the first poll (R162). -/
theorem State.BusAt.run_readyAtOnce (h : s.BusAt (.cmdT0 c arg) (Config.ready :: card) trace) :
    ∃ t, Host.Core.run Sys2Proof.core 3 s = .next t ∧
      t.BusAt (.cmdFrame c arg) card (.xchg Config.fill Config.ready :: trace) ∧ FrameKept s t := by
  have hpoll : (s.sampleT0.setSeq (.cmdPoll c arg)).BusAt (.cmdPoll c arg) (Config.ready :: card)
      trace :=
    { next := ⟨by simpa using h.next.1, by simpa using h.next.2⟩, point := rfl
      card := by simpa using h.card, trace := by simpa using h.trace }
  have hexchanged := hpoll.exchange1 Config.fill
  have htest : (((s.sampleT0.setSeq (.cmdPoll c arg)).exchange1 Config.fill).setSeq
      (.cmdReady c arg)).BusAt (.cmdReady c arg) card (.xchg Config.fill Config.ready :: trace) :=
    { hexchanged with point := rfl }
  refine ⟨_, (run_next 2 (step_cmdT0 h.next h.point)).trans <|
    (run_next 1 (step_cmdPoll hpoll.next hpoll.point)).trans <|
    run_next 0 (step_cmdReady_ready htest.next htest.point (hpoll.exchange1_rx Config.fill)), ?_, ?_⟩
  · exact { htest with point := rfl }
  · constructor <;> simp

/-- The framer's step (R161). -/
theorem State.BusAt.run_assembleFrame (h : s.BusAt (.cmdFrame c arg) card trace) :
    ∃ t, Host.Core.run Sys2Proof.core 1 s = .next t ∧ t.BusAt (.cmdSend c 0) card trace ∧
      t.cmdFrame = buildFrame (cmdIndex c) arg ∧ t.csN = s.csN ∧ t.mem = s.mem :=
  ⟨_, run_next 0 (step_cmdFrame h.next h.point), { h with point := rfl }, rfl, rfl, rfl⟩

/-- The control point before frame byte `i`; after the sixth the R1 poll (R163). -/
def framePoint (c : Cmd) (i : Nat) : Seq :=
  if h : i < 6 then .cmdSend c ⟨i, h⟩ else .r1Poll c

/-- One step sends byte `i` of the frame (R149, R163). -/
theorem State.BusAt.step_framePoint {i : Nat} (h : s.BusAt (framePoint c i) (b :: card) trace)
    (hi : i < 6) :
    ∃ t, step s = .next t ∧
      t.BusAt (framePoint c (i + 1)) card (.xchg s.cmdFrame[i] b :: trace) ∧ FrameKept s t := by
  have hpoint : s.seq = .cmdSend c ⟨i, hi⟩ := by rw [h.point, framePoint, dif_pos hi]
  have hexchanged := h.exchange1 s.cmdFrame[i]
  have hkept := s.exchange1_kept s.cmdFrame[i]
  refine ⟨_, step_cmdSend h.next hpoint, ?_⟩
  unfold State.sendFrameByte framePoint
  by_cases hlast : i + 1 < 6
  · simp only [dif_pos hlast]
    exact ⟨{ hexchanged with point := rfl }, { hkept with }⟩
  · simp only [dif_neg hlast]
    exact ⟨{ hexchanged with point := rfl }, { hkept with }⟩

/-- The frame's bytes from `i` on go out in as many steps (R149, R163). -/
theorem State.BusAt.run_frame {i : Nat} (h : s.BusAt (framePoint c i) (answers ++ rest) trace)
    (hleft : i + answers.length = 6) :
    ∃ t, Host.Core.run Sys2Proof.core answers.length s = .next t ∧
      t.BusAt (.r1Poll c) rest
        ((List.zipWith .xchg (s.cmdFrame.toList.drop i) answers).reverse ++ trace) ∧
      FrameKept s t := by
  induction answers generalizing s i trace with
  | nil =>
    obtain rfl : i = 6 := hleft
    exact ⟨s, rfl, by simpa [framePoint] using h, rfl, rfl, rfl⟩
  | cons x answers ih =>
    rw [List.length_cons] at hleft
    have hi : i < 6 := by omega
    obtain ⟨u, hstep, hu, hsu⟩ := h.step_framePoint hi
    obtain ⟨t, hrun, ht, hut⟩ := ih hu (by omega)
    refine ⟨t, (run_next _ hstep).trans hrun, ?_, hsu.trans hut⟩
    rw [List.drop_eq_getElem_cons (by simpa using hi)]
    simpa [hsu.cmdFrame] using ht

/-- A poll of the R1 collector receives the card's next byte, which its test then looks at (R165). -/
theorem State.BusAt.poll_r1 (h : s.BusAt (.r1Poll c) (b :: card) trace) :
    ∃ t, step s = .next t ∧ t.BusAt (.r1Test c) card (.xchg Config.fill b :: trace) ∧
      t.rx = b ∧ t.r1Tries = s.r1Tries + 1 ∧ FrameKept s t := by
  have hexchanged := h.exchange1 Config.fill
  have hkept := s.exchange1_kept Config.fill
  exact ⟨_, step_r1Poll h.next h.point, { hexchanged with point := rfl },
    h.exchange1_rx Config.fill, rfl, { hkept with }⟩

/-- The R1 poll, on a card that answers the first one (R165). -/
theorem State.BusAt.run_r1AtOnce (h : s.BusAt (.r1Poll c) (b :: card) trace)
    (hb : b.getLsbD 7 = false) :
    ∃ t, Host.Core.run Sys2Proof.core 2 s = .next t ∧
      t.BusAt (.got c (.resp b)) card (.xchg Config.fill b :: trace) ∧ t.r1 = b ∧
      FrameKept s t := by
  obtain ⟨u, hstep, hu, rfl, _, hkept⟩ := h.poll_r1
  have htest := (r1CollectorTests u c hu.next hu.point).2 hb
  exact ⟨_, (run_next 1 hstep).trans (run_next 0 htest), { hu with point := rfl }, rfl,
    { hkept with }⟩

/-- Settles O10: the call, the ready wait, the framer, the six frame bytes and the R1 poll, 3 + 3 + 1 + 6 + 2 steps. -/
theorem sendCommandOnReadyCard : Obligations.SendCommandOnReadyCard := by
  unfold Obligations.SendCommandOnReadyCard
  intro s c p x0 x1 x2 x3 x4 x5 b rest hnext hq hb hcard index arg head
  have hhead : head = frameHead (cmdIndex c) (s.cmdArg c) := by cases c <;> rfl
  have hissue : s.BusAt (.issue c) _ s.trace := ⟨hnext, hq, hcard, rfl⟩
  obtain ⟨s3, hrun3, hwait, hcs3, hmem3⟩ := hissue.run_call
  obtain ⟨s6, hrun6, hframer, hkept6⟩ := hwait.run_readyAtOnce
  obtain ⟨s7, hrun7, hsend, hframe7, hcs7, hmem7⟩ := hframer.run_assembleFrame
  obtain ⟨s13, hrun13, hpoll, hkept13⟩ := State.BusAt.run_frame (i := 0)
    (answers := [x0, x1, x2, x3, x4, x5]) hsend rfl
  obtain ⟨t, hrun, hgot, hr1, hkept⟩ := hpoll.run_r1AtOnce hb
  have hsince := hkept13.trans hkept
  have hframe : t.cmdFrame = buildFrame (cmdIndex c) (s.cmdArg c) := hsince.cmdFrame.trans hframe7
  refine ⟨t, ?_, hgot.point, ?_, hr1, hgot.card, ?_, ?_, ?_⟩
  · exact (run_add 12 hrun3).trans <| (run_add 9 hrun6).trans <| (run_add 8 hrun7).trans <|
      (run_add 2 hrun13).trans hrun
  · rw [hsince.csN, hcs7, hkept6.csN, hcs3]
  · rw [hframe, hhead]
    rfl
  · rw [hsince.mem, hmem7, hkept6.mem, hmem3]
  · rw [hgot.trace, hframe, hframe7]
    rfl

/-- The control point after `n` polls of the R1 collector that a byte with bit 7 set answered (R165). -/
def pollPoint (c : Cmd) (n : Nat) : Seq :=
  if n < Config.r1PollBudget then .r1Poll c else .got c .timeout

/-- As many polls as the budget has left, all answered with bit 7 set, are `Timeout` (R165). -/
theorem State.BusAt.run_r1Timeout (h : s.BusAt (pollPoint c s.r1Tries) (answers ++ rest) trace)
    (hleft : s.r1Tries + answers.length = Config.r1PollBudget)
    (hbusy : ∀ b ∈ answers, b.getLsbD 7 = true) :
    ∃ t, Host.Core.run Sys2Proof.core (2 * answers.length) s = .next t ∧
      t.BusAt (.got c .timeout) rest ((answers.map (.xchg Config.fill ·)).reverse ++ trace) := by
  induction answers generalizing s trace with
  | nil =>
    rw [pollPoint, if_neg (by simpa using hleft.ge)] at h
    exact ⟨s, rfl, h⟩
  | cons b answers ih =>
    rw [List.length_cons] at hleft
    rw [pollPoint, if_pos (by omega)] at h
    obtain ⟨hb, hbusy⟩ := List.forall_mem_cons.mp hbusy
    obtain ⟨u, hpoll, hu, hrx, htries, _⟩ := h.poll_r1
    have htest := (r1CollectorTests u c hu.next hu.point).1 (hrx ▸ hb)
    obtain ⟨t, hrun, ht⟩ := ih (s := { u with seq := pollPoint c u.r1Tries })
      { hu with point := rfl } (show u.r1Tries + _ = _ by omega) hbusy
    refine ⟨t, (run_next _ hpoll).trans ((run_next _ htest).trans hrun), ?_⟩
    simpa using ht

/-- Settles O13: 100 answers with bit 7 set use up the budget of the R1 poll. -/
theorem r1PollTimesOutAfter100 : Obligations.R1PollTimesOutAfter100 := by
  unfold Obligations.R1PollTimesOutAfter100
  intro s c answers rest hnext hq htries hlen hbusy hcard
  have hpoll : s.BusAt (pollPoint c s.r1Tries) (answers ++ rest) s.trace :=
    ⟨hnext, by rw [hq, htries]; rfl, hcard, rfl⟩
  obtain ⟨t, hrun, ht⟩ := hpoll.run_r1Timeout (by rw [htries, hlen]; rfl) hbusy
  rw [hlen] at hrun
  exact ⟨t, hrun, ht.point, ht.card, ht.trace⟩

end Sys2Proof.Machine
end

section
/-! PROOFS. INIT's steps: the bus brought up, what the caller of each of its commands does with the result, the
delay between two ACMD41 attempts, and the two ways out. -/

namespace Sys2Proof.Machine

section
variable {s : State} (hnext : s.coreNext)
include hnext

/-- The caller's test of a command's result is a step of its own (R12). -/
theorem step_got {c : Cmd} {res : CmdResult} (hq : s.seq = .got c res) :
    step s = .next (s.gotResult c res) := by
  rw [step_core hnext]
  simp only [coreStep, hq, micro]

/-- END's `pad()` is one exchange of the fill byte, and what follows END is next (R146, R147). -/
theorem step_endPad {k : Ending} (hq : s.seq = .endPad k) :
    step s = .next ((s.exchange1 Config.fill).afterEnd k) := by
  rw [step_core hnext]
  simp only [coreStep, hq, State.afterFill, State.exchange1_seq]

end

/-- To write the control point a state stands at leaves the state as it is (R47). -/
theorem State.setSeq_eq_self {s : State} {q : Seq} (hq : s.seq = q) : s.setSeq q = s := by
  subst hq
  rfl

/-- Settles O26: the core's steps at the four points; at least one fill byte is asked for. -/
theorem initBringsUpTheBus : Obligations.InitBringsUpTheBus := by
  unfold Obligations.InitBringsUpTheBus
  refine fun s hnext => ⟨fun hq => ?_, fun hq => ?_, fun hq hten => ?_, fun left hq => ?_⟩ <;>
    rw [step_core hnext] <;> simp only [coreStep, hq]
  · simp only [micro, hq, State.initEntry]
  · simp only [micro, hq, State.reconfigure, State.setSeq]
  · have hsome : s.params.nPowerupBytes ≠ 0 := by omega
    simp only [micro, hq, if_neg hsome, State.deselect, State.setSeq]
  · simp only [State.afterFill, State.exchange1_seq, hq, State.setSeq, Config.fill]

/-- CMD0's result only chooses the next control point: CMD8, or the end with NO_CARD (R192). -/
theorem State.gotCmd0_eq (s : State) (res : CmdResult) : s.gotCmd0 res = s.setSeq
    (if res = .resp 0x01#8 ∨ res = .resp 0x00#8 then .issue .cmd8
      else .endDeselect (.initFail .noCard)) := by
  cases res with
  | timeout => rfl
  | resp r =>
    simp only [State.gotCmd0, CmdResult.resp.injEq]
    split <;> rfl

/-- CMD8 with the illegal-command bit set, or timed out, is followed by the first ACMD41 attempt (R193). -/
theorem State.gotCmd8_noEcho {s : State} {res : CmdResult}
    (hbit : ∀ r : Byte, res = .resp r → r.getLsbD 2 = true) : s.gotCmd8 res = s.startAttempt := by
  cases res with
  | timeout => rfl
  | resp r => simp only [State.gotCmd8, illegalCommand, hbit r rfl, if_true]

/-- Settles O27: what the callers of CMD0 and CMD8 do with the result. -/
theorem resetAndInterfaceVerdicts : Obligations.ResetAndInterfaceVerdicts := by
  unfold Obligations.ResetAndInterfaceVerdicts
  refine fun s res hnext => ⟨fun hq => ?_, fun r hbit hq => ?_, fun hq hbit => ?_⟩ <;>
    rw [step_got hnext hq] <;> simp only [State.gotResult]
  · rw [State.gotCmd0_eq, State.setSeq]
  · simp only [State.gotCmd8, illegalCommand, hbit, Bool.false_eq_true, if_false, State.setSeq]
  · rw [State.gotCmd8_noEcho hbit, State.startAttempt]

/-- CMD41's result and the attempts made only choose the next control point: CMD58, the delay, or the end with
INIT_TIMEOUT (R194). -/
theorem State.gotCmd41_eq (s : State) (res : CmdResult) : s.gotCmd41 res = s.setSeq
    (if res = .resp 0x00#8 then .issue .cmd58
      else if s.acmd41Iter < Config.acmd41Budget then .delayT0
      else .endDeselect (.initFail .initTimeout)) := by
  unfold State.gotCmd41
  split
  · rfl
  · split <;> rfl

/-- Settles O28: CMD55's and CMD41's callers, and the delay's two steps, its test over the state before the
clock read. -/
theorem acmd41Loop : Obligations.Acmd41Loop := by
  unfold Obligations.Acmd41Loop
  refine fun s res hnext => ⟨step_got hnext, fun hq => ?_, fun hq => ?_, fun hq => ?_⟩
  · rw [step_got hnext hq, State.gotResult, State.gotCmd41_eq]
    rfl
  · rw [step_core hnext]
    simp only [coreStep, hq, micro, State.sampleT0, State.setSeq]
  · have hstay : s.readClock.setSeq .delayTest = s.readClock :=
      State.setSeq_eq_self (s.readClock_seq.trans hq)
    rw [step_core hnext]
    simp only [coreStep, hq, micro, State.delayStep, hstay, State.readClock_params,
      State.readClock_elapsed_iff, State.startAttempt, State.readClock_acmd41Iter]

/-- Settles O29: CMD58's and CMD16's callers and the OCR test, each followed by step 6 where it sets the scale. -/
theorem ocrAndBlockLength : Obligations.OcrAndBlockLength := by
  unfold Obligations.OcrAndBlockLength
  refine fun s res hnext => ⟨fun hq => ?_, fun hq => ?_, fun hq => ?_⟩
  · rw [step_got hnext hq]
    rfl
  · rw [step_core hnext]
    simp only [coreStep, hq, micro, scaleOfOcr]
    split <;> rfl
  · rw [step_got hnext hq]
    simp only [State.gotResult, State.gotCmd16]
    split <;> rfl

/-- Settles O30: END and `finish` are those of every operation (R147, R317); between them the two ways out. -/
theorem initEnds : Obligations.InitEnds := by
  unfold Obligations.InitEnds
  intro s k code hnext
  obtain ⟨hend, _, hfinish⟩ := endAndFinish s k code hnext
  refine ⟨hend, step_endPad hnext, fun hq => ?_, fun hq => ?_, step_endPad hnext, fun hq => ?_,
    hfinish⟩ <;> rw [step_core hnext] <;>
    simp only [coreStep, hq, micro, State.reconfigure, State.setSeq]

end Sys2Proof.Machine
end

section
/-! SUPPORT. The address translator as arithmetic, and the core's steps that receive a block or send its token, one
equation per control point. -/

namespace Sys2Proof.Machine

/-- No overflow is a product that fits 32 bits (R221). -/
theorem addrOverflow_eq_false_iff (scale : BlockScale) (bn : Word) :
    addrOverflow scale bn = false ↔ bn.toNat * scale.value < 2 ^ 32 := by
  rw [addrOverflow, decide_eq_false_iff_not]
  omega

/-- The translator is exact where it does not overflow (R220). -/
theorem cardAddr_toNat {scale : BlockScale} {bn : Word} (h : addrOverflow scale bn = false) :
    (cardAddr scale bn).toNat = bn.toNat * scale.value := by
  rw [cardAddr, BitVec.toNat_ofNat, Nat.mod_eq_of_lt ((addrOverflow_eq_false_iff scale bn).mp h)]

/-- An exchange keeps the number of blocks (R142, R222). -/
@[simp] theorem State.exchange1_nBlocks (s : State) (out : Byte) :
    (s.exchange1 out).nBlocks = s.nBlocks := by
  rw [State.nBlocks, State.exchange1_opLatch, State.nBlocks]

/-- After a data token the block's data follow, the CRC register and the byte counter cleared (R225). -/
theorem State.tokenSent_tokenOut {s : State} (hq : s.seq = .tokenOut) :
    s.tokenSent = { s with crc16 := 0#16, idx := 0, seq := .dataSend } := by
  simp only [State.tokenSent, hq]

section
variable {s : State} {d : Dest} (hnext : s.coreNext)
include hnext

/-- The token of a written block is chosen by the number of blocks (R226). -/
theorem step_tokenOut (hq : s.seq = .tokenOut) :
    step s = .next (s.exchange1 (if s.nBlocks ≤ 1 then Config.tokenStartBlock
      else Config.tokenStartMultiWrite)).tokenSent := by
  rw [step_core hnext]
  simp only [coreStep, hq]

/-- The token poll samples the clock (R224). -/
theorem step_tokT0 (hq : s.seq = .tokT0 d) :
    step s = .next (s.sampleT0.setSeq (.tokPoll d)) := by
  rw [step_core hnext]
  simp only [coreStep, hq, micro]

/-- A poll of the token poll is one exchange of the fill byte (R224). -/
theorem step_tokPoll (hq : s.seq = .tokPoll d) :
    step s = .next ((s.exchange1 Config.fill).setSeq (.tokTest d)) := by
  rw [step_core hnext]
  simp only [coreStep, hq, State.afterFill, State.exchange1_seq]

/-- 0xFE ends the token poll, and data byte 0 follows (R110, R224). -/
theorem step_tokTest_start (hq : s.seq = .tokTest d) (hrx : s.rx = Config.tokenStartBlock) :
    step s = .next { s with idx := 0, seq := .dataRecv d } := by
  rw [step_core hnext]
  simp only [coreStep, hq, if_pos hrx]

/-- Any other byte is no token (R224). -/
theorem step_tokTest_other (hq : s.seq = .tokTest d) (hrx : s.rx ≠ Config.tokenStartBlock) :
    step s = .next s.noToken := by
  rw [step_core hnext]
  simp only [coreStep, hq, if_neg hrx]

/-- The first CRC byte of a received block is one exchange of the fill byte (R224). -/
theorem step_crcRecv_first (hq : s.seq = .crcRecv d false) :
    step s = .next ((s.exchange1 Config.fill).setSeq (.crcRecv d true)) := by
  rw [step_core hnext]
  simp only [coreStep, hq, State.afterFill, State.exchange1_seq]

/-- The second CRC byte ends the received block (R224). -/
theorem step_crcRecv_second (hq : s.seq = .crcRecv d true) :
    step s = .next ((s.exchange1 Config.fill).blockEnd d) := by
  rw [step_core hnext]
  simp only [coreStep, hq, State.afterFill, State.exchange1_seq]

end

/-- Where a token poll that ran out of time goes: DATA_TOKEN_TIMEOUT for a read, the soft failure 0 for a capacity
query (R224, R260). -/
def tokenTimeout : Dest → Seq
  | .buffer => .endDeselect (.blockIo .dataTokenTimeout)
  | .csd => .endDeselect (.count 0#33)

/-- A byte that is no token costs a clock read and only chooses the next control point (R224). -/
theorem State.noToken_eq {s : State} {d : Dest} (hq : s.seq = .tokTest d) :
    s.noToken = s.readClock.setSeq
      (if s.readClock.elapsed Config.tTokenMs then tokenTimeout d else .tokPoll d) := by
  simp only [State.noToken, hq]
  split
  · cases d <;> rfl
  · rfl

end Sys2Proof.Machine
end

section
/-! PROOFS. Block input and output: the address translator, the data tokens, the token poll, and what follows a
received block. -/

namespace Sys2Proof.Machine

/-- Settles O39: exactness is the translator's law; the product reaches 2^32 for the factor 512 only, from 2^23 on. -/
theorem addressTranslation : Obligations.AddressTranslation := by
  unfold Obligations.AddressTranslation
  refine fun scale bn => ⟨fun hfits => ?_, ?_⟩
  · rw [cardAddr_toNat hfits]
    cases scale <;> rfl
  · rw [← not_iff_not, Bool.not_eq_true, addrOverflow_eq_false_iff]
    have hbn := bn.isLt
    cases scale
    case block => simpa [BlockScale.value] using hbn
    case byte =>
      simp only [BlockScale.value, true_and]
      omega

/-- Settles O16: the meanings of the two data tokens and of the stop token at their own points. -/
theorem tokensGoOut : Obligations.TokensGoOut := by
  unfold Obligations.TokensGoOut
  refine fun s => ⟨fun hq => ⟨?_, ?_⟩, fun hq => ?_⟩
  · simp only [exec, execTokenStartBlock, hq]
    rw [State.tokenSent_tokenOut (by simpa using hq), Config.tokenStartBlock]
  · simp only [exec, execTokenStartMultiWrite]
    rw [State.tokenSent_tokenOut (by simpa using hq), Config.tokenStartMultiWrite]
  · simp only [exec, execTokenStopMultiWrite, hq, State.ioEnd, State.setSeq,
      Config.tokenStopMultiWrite]

/-- Settles O17: with at least one block, "at most one" is "one". -/
theorem tokenIsChosenByBlockCount : Obligations.TokenIsChosenByBlockCount := by
  unfold Obligations.TokenIsChosenByBlockCount
  intro s hnext hq hsome
  have hsingle : s.nBlocks ≤ 1 ↔ s.opLatch.len.toNat / 512 = 1 := by
    simp only [State.nBlocks, blocksIn, Config.blockSize]
    omega
  rw [step_tokenOut hnext hq, State.tokenSent_tokenOut (by simpa using hq)]
  simp only [hsingle, Config.tokenStartBlock, Config.tokenStartMultiWrite]

/-- Settles O18: the steps of the token poll, its test of the time over the state before the clock read. -/
theorem tokenPollTests : Obligations.TokenPollTests := by
  unfold Obligations.TokenPollTests
  refine fun s d hnext => ⟨step_tokT0 hnext, step_tokPoll hnext, fun hq => ⟨?_,
    step_tokTest_start hnext hq, fun hrx => ?_⟩⟩
  · simp only [exec, execTokenStartBlock, hq]
  · rw [step_tokTest_other hnext hq hrx, State.noToken_eq hq]
    simp only [State.readClock_elapsed_iff]
    cases d <;> rfl

/-- Settles O32: the steps of the two CRC bytes, the second with the read's three ways on, and CMD12's caller. -/
theorem receivedBlockIsFollowed : Obligations.ReceivedBlockIsFollowed := by
  unfold Obligations.ReceivedBlockIsFollowed
  refine fun s d res hnext => ⟨step_crcRecv_first hnext, fun hq => ?_, step_got hnext⟩
  rw [step_crcRecv_second hnext hq, State.blockEnd, State.blockReceived, State.exchange1_nBlocks,
    State.exchange1_blk]
  rfl

end Sys2Proof.Machine
end

section
/-! PROOFS. The capacity query: the fields of the CSD as numbers, its decode without loss in 33 bits, and how a
BLOCK_COUNT ends. -/

namespace Sys2Proof.Machine

/-- A byte's top bits from bit `k` on, as a number. -/
theorem byte_topBits_toNat (b : Byte) {k n : Nat} (htop : k + n = 8) :
    (b.extractLsb' k n).toNat = b.toNat / 2 ^ k := by
  have hbyte : b.toNat < 2 ^ k * 2 ^ n := by
    rw [← Nat.pow_add, htop]
    exact b.isLt
  rw [BitVec.extractLsb'_toNat, Nat.shiftRight_eq_div_pow,
    Nat.mod_eq_of_lt (Nat.div_lt_of_lt_mul hbyte)]

/-- A byte's low `n` bits, as a number. -/
theorem byte_lowBits_toNat (b : Byte) (n : Nat) : (b.extractLsb' 0 n).toNat = b.toNat % 2 ^ n := by
  rw [BitVec.extractLsb'_toNat, Nat.shiftRight_zero]

section
variable (csd : Vector Byte 16)

/-- `C_SIZE2` as a number (R115). -/
theorem csdSize2_toNat : (csdSize2 csd).toNat =
    csd[7].toNat % 64 * 65536 + csd[8].toNat * 256 + csd[9].toNat := by
  rw [csdSize2, append_toNat, append_toNat, byte_lowBits_toNat]
  omega

/-- `C_SIZE1` as a number (R116). -/
theorem csdSize1_toNat : (csdSize1 csd).toNat =
    csd[6].toNat % 4 * 1024 + csd[7].toNat * 4 + csd[8].toNat / 64 := by
  rw [csdSize1, append_toNat, append_toNat, byte_lowBits_toNat, byte_topBits_toNat csd[8] rfl]
  omega

/-- `C_SIZE_MULT` as a number (R116). -/
theorem csdMult_toNat : (csdMult csd).toNat = csd[9].toNat % 4 * 2 + csd[10].toNat / 128 := by
  rw [csdMult, append_toNat, byte_lowBits_toNat, byte_topBits_toNat csd[10] rfl]
  rfl

/-- Version 2.0 reaches at most 2^32 blocks, so 33 bits lose nothing (R262). -/
theorem decodeV2_toNat : (decodeV2 csd).toNat = ((csdSize2 csd).toNat + 1) * 1024 := by
  have hsize := (csdSize2 csd).isLt
  rw [decodeV2, BitVec.toNat_ofNat, Nat.mod_eq_of_lt (by omega)]

/-- Version 1.0 reaches at most 2^12 * 2^9 blocks, so 33 bits lose nothing (R263). -/
theorem decodeV1_toNat : (decodeV1 csd).toNat =
    ((csdSize1 csd).toNat + 1) * 2 ^ ((csdMult csd).toNat + 2) := by
  have hsize : (csdSize1 csd).toNat + 1 ≤ 2 ^ 12 := (csdSize1 csd).isLt
  have hmult : (csdMult csd).toNat + 2 ≤ 9 := by
    have := (csdMult csd).isLt
    omega
  have hcount := Nat.mul_le_mul hsize (Nat.pow_le_pow_right Nat.two_pos hmult)
  rw [decodeV1, BitVec.toNat_ofNat, Nat.mod_eq_of_lt (by omega)]

/-- The layout is the number of byte 0's top two bits (R261). -/
theorem csdLayout_eq_iff (v : BitVec 2) :
    csd[0].extractLsb' 6 2 = v ↔ csd[0].toNat / 64 = v.toNat := by
  rw [← BitVec.toNat_inj, byte_topBits_toNat csd[0] rfl]
  rfl

/-- The decode by the layout's number (R261, R264). -/
theorem csdDecode_eq : csdDecode csd =
    if csd[0].toNat / 64 = 1 then decodeV2 csd
    else if csd[0].toNat / 64 = 0 then decodeV1 csd
    else 0#33 := by
  simp only [csdDecode, csdLayout_eq_iff]
  rfl

end

/-- Settles O40: the layout chooses the version, each exact in 33 bits, and its fields are read as numbers. -/
theorem csdDecodeIsExact : Obligations.CsdDecodeIsExact := by
  unfold Obligations.CsdDecodeIsExact
  refine fun csd => ⟨fun hv2 => ?_, fun hv1 => ?_, fun hother => ?_⟩ <;> rw [csdDecode_eq]
  · rw [if_pos hv2, decodeV2_toNat, csdSize2_toNat]
  · rw [if_neg (by omega), if_pos hv1, decodeV1_toNat, csdSize1_toNat, csdMult_toNat]
  · rw [if_neg (by omega), if_neg (by omega)]

/-- CMD9's result only chooses the next control point: the CSD's token poll, or the end with the count 0 (R260). -/
theorem State.gotCmd9_eq (s : State) (res : CmdResult) : s.gotCmd9 res = s.setSeq
    (if res = .resp 0x00#8 then .tokT0 .csd else .endDeselect (.count 0#33)) := by
  unfold State.gotCmd9
  split <;> rfl

/-- Settles O33: CMD9's caller, the second CRC byte of the CSD, END's padding exchange, and the write of the count
registers. -/
theorem capacityQueryEnds : Obligations.CapacityQueryEnds := by
  unfold Obligations.CapacityQueryEnds
  refine fun s res v hnext => ⟨fun hq => ?_, fun hq => ?_, step_endPad hnext, fun hq => ?_⟩
  · rw [step_got hnext hq, State.gotResult, State.gotCmd9_eq, State.setSeq]
  · rw [step_crcRecv_second hnext hq, State.blockEnd, State.exchange1_csd, State.countEnd_eq]
    rfl
  · rw [step_core hnext]
    simp only [coreStep, hq, micro]

end Sys2Proof.Machine
end

section
/-! SUPPORT. The turns still listed are no part of what the core does: its step with some listed is its step with
none listed, and the turns go over as they are (`coreStep_dropTurn`). One lemma per operation, in the order of the
model's files, each named after its operation. -/

namespace Sys2Proof.Machine

/-- An outcome with `rest` as the turns still listed (assumption 5). -/
def Outcome.dropTurn (rest : List Turn) : Outcome → Outcome
  | .next t => .next (t.dropTurn rest)
  | .fault f => .fault f
  | .refused r => .refused r

/-- Whichever of two states goes over, its turns do. -/
theorem State.dropTurn_ite {p : Prop} [Decidable p] (t u : State) (rest : List Turn) :
    (if p then t else u).dropTurn rest = if p then t.dropTurn rest else u.dropTurn rest :=
  apply_ite (State.dropTurn · rest) p t u

variable (s : State) (rest : List Turn)

/-! ### The free inputs: each has a list of its own -/

theorem State.drawCard_dropTurn : (s.dropTurn rest).drawCard = s.drawCard.dropTurn rest := by
  cases hcard : s.env.card <;> simp only [State.drawCard, State.dropTurn_env, hcard] <;> rfl

theorem State.exchange1_dropTurn (out : Byte) :
    (s.dropTurn rest).exchange1 out = (s.exchange1 out).dropTurn rest := by
  rw [State.exchange1, State.drawCard_dropTurn]
  rfl

theorem State.readClock_dropTurn : (s.dropTurn rest).readClock = s.readClock.dropTurn rest := by
  cases hin : s.env.clockIn <;> simp only [State.readClock, State.dropTurn_env, hin] <;> rfl

theorem State.sampleT0_dropTurn : (s.dropTurn rest).sampleT0 = s.sampleT0.dropTurn rest := by
  rw [State.sampleT0, State.readClock_dropTurn]
  rfl

theorem State.drawChoice_dropTurn : (s.dropTurn rest).drawChoice =
    (s.drawChoice.1, s.drawChoice.2.dropTurn rest) := by
  cases hchoices : s.env.choices <;>
    simp only [State.drawChoice, State.dropTurn_env, hchoices] <;> rfl

theorem State.drawAmong_dropTurn (first : Byte) (others : List Byte) :
    (s.dropTurn rest).drawAmong first others =
      ((s.drawAmong first others).1, (s.drawAmong first others).2.dropTurn rest) := by
  cases others
  · rfl
  · simp only [State.drawAmong, State.drawChoice_dropTurn]

/-! ### The host buffer -/

theorem State.settleEach_dropTurn (a : Word) (v : Byte) (loads : List HostLoad) :
    (s.dropTurn rest).settleEach a v loads =
      ((s.settleEach a v loads).1, (s.settleEach a v loads).2.dropTurn rest) := by
  induction loads generalizing s with
  | nil => rfl
  | cons l older ih =>
    simp only [State.settleEach, State.drawAmong_dropTurn, ih]
    split <;> rfl

theorem State.settleLoads_dropTurn (a : Word) (v : Byte) :
    (s.dropTurn rest).settleLoads a v = (s.settleLoads a v).dropTurn rest := by
  simp only [State.settleLoads, State.dropTurn_hostLoads, State.settleEach_dropTurn]
  rfl

/-- After the draw the core's store is `stored`, and settling the loads is the rest of it. -/
theorem State.coreStore_dropTurn (a : Word) (v : Byte) :
    (s.dropTurn rest).coreStore a v = Outcome.dropTurn rest (s.coreStore a v) := by
  have hadm : (s.dropTurn rest).admits a .write = s.admits a .write := rfl
  have hnow : (s.dropTurn rest).memRead a = s.memRead a := rfl
  simp only [State.coreStore, hadm, hnow, State.dropTurn_race, State.drawAmong_dropTurn]
  split
  · obtain ⟨cs, n, hdraw⟩ := s.drawAmong_frame v (hostRival (racing s.race.hostWrote a) (s.memRead a))
    rw [hdraw]
    exact congrArg Host.Outcome.next (((s.setDraws cs n).stored a v _).settleLoads_dropTurn rest a v)
  · rfl

theorem State.coreLoad_dropTurn (a : Word) : (s.dropTurn rest).coreLoad a =
    ((s.coreLoad a).1, (s.coreLoad a).2.dropTurn rest) := by
  simp only [State.coreLoad, State.drawAmong_dropTurn]
  rfl

/-! ### The commands' results and the received bytes -/

theorem State.step6_dropTurn : (s.dropTurn rest).step6 = s.step6.dropTurn rest := by
  simp only [State.step6, State.dropTurn_blockScale]
  cases s.blockScale <;> rfl

theorem State.blockSent_dropTurn : (s.dropTurn rest).blockSent = s.blockSent.dropTurn rest := by
  simp only [State.blockSent, State.dropTurn_ite]
  rfl

theorem State.gotResult_dropTurn (c : Cmd) (res : CmdResult) :
    (s.dropTurn rest).gotResult c res = (s.gotResult c res).dropTurn rest := by
  cases c <;> simp only [State.gotResult]
  case cmd8 => cases res <;> simp only [State.gotCmd8, State.dropTurn_ite] <;> rfl
  case cmd17 | cmd18 => cases res <;> simp only [State.gotRead, State.dropTurn_ite] <;> rfl
  case cmd24 | cmd25 => cases res <;> simp only [State.gotWrite, State.dropTurn_ite] <;> rfl
  case cmd58 =>
    rw [State.gotCmd58, State.gotCmd58, State.dropTurn_ite, ← State.step6_dropTurn]
    rfl
  case cmd16 => simp only [State.gotCmd16, State.dropTurn_ite]; rfl
  case cmd0 => rw [State.gotCmd0_eq, State.gotCmd0_eq]; rfl
  case cmd41 => rw [State.gotCmd41_eq, State.gotCmd41_eq]; rfl
  case cmd9 => rw [State.gotCmd9_eq, State.gotCmd9_eq]; rfl
  case cmd55 | cmd12 => rfl

theorem State.noR1_dropTurn : (s.dropTurn rest).noR1 = s.noR1.dropTurn rest := by
  simp only [State.noR1, State.dropTurn_seq]
  cases s.seq <;> rfl

theorem State.notReady_dropTurn : (s.dropTurn rest).notReady = s.notReady.dropTurn rest := by
  simp only [State.notReady, State.dropTurn_seq, State.readClock_dropTurn]
  cases s.seq
  case wrReady => simp only [State.dropTurn_ite]; rfl
  all_goals rfl

theorem State.noToken_dropTurn : (s.dropTurn rest).noToken = s.noToken.dropTurn rest := by
  cases hq : s.seq
  case tokTest d =>
    rw [State.noToken_eq hq, State.noToken_eq (s := s.dropTurn rest) hq, State.readClock_dropTurn]
    rfl
  all_goals simp only [State.noToken, State.dropTurn_seq, hq]

theorem State.rejectedBlock_dropTurn :
    (s.dropTurn rest).rejectedBlock = s.rejectedBlock.dropTurn rest := by
  simp only [State.rejectedBlock, State.dropTurn_seq]
  cases s.seq <;> rfl

/-! ### The exchanges of a token, a fill byte and the sequencer's own bytes -/

theorem State.tokenSent_dropTurn : (s.dropTurn rest).tokenSent = s.tokenSent.dropTurn rest := by
  simp only [State.tokenSent, State.dropTurn_seq]
  cases s.seq <;> rfl

theorem State.payloadByte_dropTurn (p : Payload) (k : Fin 4) :
    (s.dropTurn rest).payloadByte p k = (s.payloadByte p k).dropTurn rest := by
  cases p <;> simp only [State.payloadByte] <;> split <;> rfl

theorem State.dataByte_dropTurn (d : Dest) :
    (s.dropTurn rest).dataByte d = Outcome.dropTurn rest (s.dataByte d) := by
  cases d
  case csd => rfl
  case buffer =>
    have hstore : (s.dropTurn rest).coreStore (s.dropTurn rest).bufAddr (s.dropTurn rest).rx =
        Outcome.dropTurn rest (s.coreStore s.bufAddr s.rx) := s.coreStore_dropTurn rest s.bufAddr s.rx
    simp only [State.dataByte, hstore]
    cases s.coreStore s.bufAddr s.rx <;> rfl

theorem State.blockEnd_dropTurn (d : Dest) :
    (s.dropTurn rest).blockEnd d = (s.blockEnd d).dropTurn rest := by
  cases d
  case csd => rfl
  case buffer =>
    simp only [State.blockEnd, State.blockReceived, State.dropTurn_ite]
    rfl

theorem State.afterFill_dropTurn :
    (s.dropTurn rest).afterFill = Outcome.dropTurn rest s.afterFill := by
  simp only [State.afterFill, State.dropTurn_seq]
  cases s.seq
  case dataRecv d => exact s.dataByte_dropTurn rest d
  case payload p k => exact congrArg Host.Outcome.next (s.payloadByte_dropTurn rest p k)
  case crcRecv d second =>
    cases second
    · rfl
    · exact congrArg Host.Outcome.next (s.blockEnd_dropTurn rest d)
  case endPad k => cases k <;> rfl
  all_goals rfl

theorem State.sendFrameByte_dropTurn (c : Cmd) (i : Fin 6) :
    (s.dropTurn rest).sendFrameByte c i = (s.sendFrameByte c i).dropTurn rest := by
  simp only [State.sendFrameByte, State.dropTurn_cmdFrame, State.exchange1_dropTurn]
  split <;> rfl

theorem State.delayStep_dropTurn : (s.dropTurn rest).delayStep = s.delayStep.dropTurn rest := by
  simp only [State.delayStep, State.readClock_dropTurn, State.dropTurn_ite]
  rfl

/-- The byte sent is the one loaded, so the exchange is that of the state the load leaves. -/
theorem State.sendDataByte_dropTurn :
    (s.dropTurn rest).sendDataByte = Outcome.dropTurn rest s.sendDataByte := by
  have haddr : (s.dropTurn rest).bufAddr = s.bufAddr := rfl
  have hadm : (s.dropTurn rest).admits s.bufAddr .read = s.admits s.bufAddr .read := rfl
  simp only [State.sendDataByte, haddr, hadm, State.coreLoad_dropTurn]
  split
  · obtain ⟨b, u⟩ := s.coreLoad s.bufAddr
    have hsent : State.exchange1 { u.dropTurn rest with crc16 := crc16Step u.crc16 b } b =
        (State.exchange1 { u with crc16 := crc16Step u.crc16 b } b).dropTurn rest :=
      State.exchange1_dropTurn { u with crc16 := crc16Step u.crc16 b } rest b
    simp only [State.dropTurn_crc16, hsent]
    rfl
  · rfl

/-! ### The core's step -/

/-- The core's step is the same whatever turns are listed after it, and keeps them (assumption 5). -/
theorem coreStep_dropTurn : coreStep (s.dropTurn rest) = Outcome.dropTurn rest (coreStep s) := by
  simp only [coreStep, State.dropTurn_seq, State.dropTurn_rx, State.exchange1_dropTurn]
  cases hq : s.seq <;> simp only [micro, State.dropTurn_seq, hq]
  case initFill | cmdPad | cmdPoll | r1Poll | payload | tokPoll | dataRecv | crcRecv | respPoll |
      wrPoll | endPad => exact State.afterFill_dropTurn _ rest
  case dataSend => exact s.sendDataByte_dropTurn rest
  case ocrTest =>
    exact congrArg Host.Outcome.next
      (State.step6_dropTurn { s with seq := .ocrTest, blockScale := scaleOfOcr s.ocr } rest)
  case got => rw [State.gotResult_dropTurn]; rfl
  case cmdSend => rw [State.sendFrameByte_dropTurn]; rfl
  case delayTest => rw [State.delayStep_dropTurn]; rfl
  case tokenOut => exact congrArg Host.Outcome.next (State.tokenSent_dropTurn _ rest)
  case cmdReady => rw [State.notReady_dropTurn, Outcome.dropTurn, State.dropTurn_ite]; rfl
  case wrReady =>
    rw [State.blockSent_dropTurn, State.notReady_dropTurn, Outcome.dropTurn, State.dropTurn_ite]; rfl
  case r1Test => rw [State.noR1_dropTurn, Outcome.dropTurn, State.dropTurn_ite]; rfl
  case tokTest => rw [State.noToken_dropTurn, Outcome.dropTurn, State.dropTurn_ite]; rfl
  case respTest => rw [State.rejectedBlock_dropTurn, Outcome.dropTurn, State.dropTurn_ite]; rfl
  case cmdT0 | delayT0 | tokT0 | wrT0 => rw [State.sampleT0_dropTurn]; rfl
  case crcHi | crcLo => rw [State.exchange1_dropTurn]; rfl
  all_goals rfl

/-- The core's listed turn is the step it takes with nothing listed, the turns after it listed still; while the
reset input is asserted both leave the block as it is (R340). -/
theorem step_listedCore {s : State} {rest : List Turn} (h : s.env.turns = .core :: rest) :
    step s = Outcome.dropTurn rest (step (s.dropTurn [])) := by
  rw [step_turn h, turnStep, State.dropTurn_resetIn]
  cases hreset : s.resetIn
  · rw [step_core (s := s.dropTurn []) ⟨rfl, hreset⟩]
    exact coreStep_dropTurn (s.dropTurn []) rest
  · rw [step_held (s := s.dropTurn []) rfl hreset]
    rfl

end Sys2Proof.Machine
end

section
/-! SUPPORT. The dispatcher at IDLE: which bits of an OP word it decodes, what it answers to each opcode, and the
pre-checks of a block operation. -/

namespace Sys2Proof.Machine

/-- Only an OP word's bits 3:0 count (R103). -/
theorem decodeOp_lowBits (w : Word) : decodeOp w = decodeOp ((w.extractLsb' 0 4).setWidth 32) := by
  have hdec := decodeInvertsEncode (decodeOp w)
  rw [encode_decodeOp] at hdec
  exact (Except.ok.inj hdec).symm

/-- The opcodes from 5 on are those of the three reserved rows (R102). -/
theorem decodeOp_reserved : ∀ opc : BitVec 4, 5 ≤ opc.toNat →
    (decodeOp (opc.setWidth 32) = .reserved5 ∧ opc = 5#4) ∨
      (∃ low, decodeOp (opc.setWidth 32) = .reserved67 low ∧ opc = 0b011#3 ++ low) ∨
      ∃ low, decodeOp (opc.setWidth 32) = .reserved8F low ∧ opc = 1#1 ++ low := by
  decide

section
variable {s : State} (hidle : s.seq = .idle)
include hidle

/-- At IDLE the block is not BUSY (R37). -/
theorem State.busy_eq_false : s.busy = false := by
  rw [State.busy, hidle]
  rfl

/-- At IDLE a reserved opcode is rejected (R286). -/
theorem State.illegalOp_idle (opc : BitVec 4) : s.illegalOp opc = s.rejectOp opc .illegalOp := by
  rw [State.illegalOp, State.busy_eq_false hidle]
  rfl

/-- At IDLE INIT is accepted (R190, R281). -/
theorem exec_init_idle : exec .init s = .next (s.acceptOp 1#4 .initEntry) := by
  simp only [exec, execInit, State.busy_eq_false hidle]
  rfl

/-- At IDLE READ_BLOCKS goes to its pre-checks (R281, R282). -/
theorem exec_readBlocks_idle :
    exec .readBlocks s = .next (s.startBlocks opcRead .cmd17 .cmd18) := by
  simp only [exec, execReadBlocks, State.busy_eq_false hidle]
  rfl

/-- At IDLE WRITE_BLOCKS goes to its pre-checks (R281, R282). -/
theorem exec_writeBlocks_idle :
    exec .writeBlocks s = .next (s.startBlocks opcWrite .cmd24 .cmd25) := by
  simp only [exec, execWriteBlocks, State.busy_eq_false hidle]
  rfl

/-- At IDLE and in phase READY BLOCK_COUNT is accepted (R260, R281). -/
theorem exec_blockCount_ready (hready : s.phase = .ready) :
    exec .blockCount s = .next (s.acceptOp 4#4 (.issue .cmd9)) := by
  simp only [exec, execBlockCount, State.busy_eq_false hidle, hready]
  rfl

end

/-- The pre-checks of a block operation are exactly these (R222, R282). -/
theorem State.preCheckBlocks_eq_none_iff {s : State} : s.preCheckBlocks = none ↔
    (0 < s.length.toNat ∧ s.length.toNat % Config.blockSize = 0) ∧ s.phase = .ready ∧
      addrOverflow s.blockScale s.blockNumber = false := by
  refine ⟨fun h => ?_, fun ⟨⟨hpos, hmod⟩, hready, hfits⟩ => ?_⟩
  · obtain ⟨hlen, hfits⟩ := State.preCheckBlocks_pass h
    exact ⟨hlen, State.preCheckBlocks_none h, hfits⟩
  · rw [State.preCheckBlocks, if_neg (by omega), if_neg (by simpa using hready), hfits]
    rfl

/-- A whole number of blocks is one block exactly at 512 bytes (R222). -/
theorem blocksIn_eq_one_iff {len : Word} (hmod : len.toNat % Config.blockSize = 0) :
    blocksIn len = 1 ↔ len = 512#32 := by
  rw [← BitVec.toNat_inj, blocksIn]
  simp only [Config.blockSize, BitVec.toNat_ofNat] at *
  omega

/-- Past the pre-checks a block operation is accepted, at its command for one block or for more (R228). -/
theorem State.startBlocks_pass {s : State} (opc : BitVec 4) (single multi : Cmd)
    (hpass : s.preCheckBlocks = none) : s.startBlocks opc single multi =
      s.acceptOp opc (.issue (if s.length = 512#32 then single else multi)) := by
  obtain ⟨⟨_, hmod⟩, _⟩ := State.preCheckBlocks_pass hpass
  rw [State.startBlocks, hpass]
  simp only [blocksIn_eq_one_iff hmod]

end Sys2Proof.Machine
end

section
/-! PROOFS. The host's interface: a listed turn, the dispatcher's answer to an OP write, and a register write. -/

namespace Sys2Proof.Machine

/-- Settles O47: a turn of the host is read off `turnStep`; the core's commutes with the schedule. -/
theorem stepTakesTheTurn : Obligations.StepTakesTheTurn := by
  unfold Obligations.StepTakesTheTurn
  refine fun s rest => ⟨fun off width w hturns hreset hport => ?_, fun off width => step_turn,
    fun a v => step_turn, fun a => step_turn, fun hturns => ⟨fun t hcore => ?_, fun f hcore => ?_⟩⟩
  · rw [step_turn hturns, turnStep, State.dropTurn_resetIn, hreset, if_neg (by decide),
      if_neg (not_and_or.mpr hport)]
  · rw [step_listedCore hturns, hcore, Outcome.dropTurn]
  · rw [step_listedCore hturns, hcore, Outcome.dropTurn]

/-- Settles O1: NOP's meaning is the state itself, and bits 3:0 of 0 decode like the word 0. -/
theorem nopHasNoEffect : Obligations.NopHasNoEffect := by
  unfold Obligations.NopHasNoEffect
  refine fun s => ⟨rfl, fun w hlow => ?_⟩
  rw [decodeOp_lowBits, hlow]
  rfl

/-- Settles O2: the acceptance of INIT, which has no pre-check. -/
theorem initIsAccepted : Obligations.InitIsAccepted := by
  unfold Obligations.InitIsAccepted
  intro s hidle
  rw [exec_init_idle hidle, State.acceptOp, endWaiting]

/-- Settles O3: the hypotheses are the pre-checks, and what passes them is accepted. -/
theorem blockOperationsAreAccepted : Obligations.BlockOperationsAreAccepted := by
  unfold Obligations.BlockOperationsAreAccepted
  intro s hidle hready hpos hmod hfits
  have hpass : s.preCheckBlocks = none := State.preCheckBlocks_eq_none_iff.mpr
    ⟨⟨hpos, hmod⟩, hready, (addrOverflow_eq_false_iff _ _).mpr (by omega)⟩
  rw [exec_readBlocks_idle hidle, exec_writeBlocks_idle hidle, State.startBlocks_pass _ _ _ hpass,
    State.startBlocks_pass _ _ _ hpass]
  exact ⟨rfl, rfl⟩

/-- Settles O4: the acceptance of BLOCK_COUNT, whose pre-check is the phase. -/
theorem blockCountIsAccepted : Obligations.BlockCountIsAccepted := by
  unfold Obligations.BlockCountIsAccepted
  intro s hidle hready
  rw [exec_blockCount_ready hidle hready, State.acceptOp, endWaiting]

/-- Settles O5: each reserved row is `illegalOp` at its own opcode, and the words from 5 on are these rows. -/
theorem reservedOpcodesEndIllegalOp : Obligations.ReservedOpcodesEndIllegalOp := by
  unfold Obligations.ReservedOpcodesEndIllegalOp
  intro s hidle
  have hrow (opc : BitVec 4) : (.next (s.illegalOp opc) : Outcome) =
      .next { s with lastOp := opc, result := .illegalOp } := by
    rw [State.illegalOp_idle hidle, State.rejectOp]
  refine ⟨fun w hw => ?_, hrow _, fun low => hrow _, fun low => hrow _⟩
  rw [decodeOp_lowBits]
  rcases decodeOp_reserved _ hw with ⟨hdec, hopc⟩ | ⟨low, hdec, hopc⟩ | ⟨low, hdec, hopc⟩ <;>
    rw [hdec, hopc] <;> exact hrow _

/-- Settles O49: each of the four writable offsets, and no other, is one branch of the word write. -/
theorem registerWrites : Obligations.RegisterWrites := by
  unfold Obligations.RegisterWrites
  refine fun s w => ⟨rfl, rfl, rfl, rfl, fun off hbn hlen hbase hws => ?_, fun off => ⟨rfl, rfl⟩⟩
  simp only [State.hostWriteReg, if_neg hbn, if_neg hlen, if_neg hbase, if_neg hws]

end Sys2Proof.Machine
end

section
/-! SUPPORT. The exits of a block operation: which pre-check each value of `preCheckBlocks` stands for, how the
dispatcher rejects, and what the caller of an address command does with its result. -/

namespace Sys2Proof.Machine

section
variable {s : State}

/-- The first pre-check: no byte, or no whole number of blocks (R282, R310). -/
theorem State.preCheckBlocks_badLength (hlen : s.length = 0#32 ∨ s.length.toNat % 512 ≠ 0) :
    s.preCheckBlocks = some .invalidBufferLength :=
  if_pos (hlen.imp_left fun hzero => congrArg BitVec.toNat hzero)

/-- Past the first pre-check only the phase and the address count (R282). -/
theorem State.preCheckBlocks_goodLength (hpos : s.length ≠ 0#32) (hmod : s.length.toNat % 512 = 0) :
    s.preCheckBlocks = if s.phase ≠ .ready then some .notReady
      else if addrOverflow s.blockScale s.blockNumber then some .addressOverflow else none :=
  if_neg (not_or.mpr ⟨fun hzero => hpos (BitVec.toNat_inj.mp hzero), not_not.mpr hmod⟩)

section
variable (hidle : s.seq = .idle)
include hidle

/-- What a pre-check of a block operation rejects: LAST_OP and RESULT are written, nothing else (R281, R282). -/
theorem exec_blocks_rejected {code : ResultCode} (hcheck : s.preCheckBlocks = some code) :
    exec .readBlocks s = .next { s with lastOp := 2#4, result := code } ∧
      exec .writeBlocks s = .next { s with lastOp := 3#4, result := code } := by
  rw [exec_readBlocks_idle hidle, exec_writeBlocks_idle hidle, State.startBlocks, State.startBlocks,
    hcheck]
  exact ⟨rfl, rfl⟩

/-- At IDLE and outside READY BLOCK_COUNT is rejected, with the count 0 (R282, R312). -/
theorem exec_blockCount_notReady (hphase : s.phase ≠ .ready) :
    exec .blockCount s = .next { s.rejectOp 4#4 .notReady with blockCount := 0#33 } := by
  simp only [exec, execBlockCount, State.busy_eq_false hidle, Bool.false_eq_true, if_false,
    if_pos hphase]

end

section
variable {c : Cmd} {res : CmdResult}

/-- The read commands have one caller (R229, R230). -/
theorem State.gotResult_read (hc : c = .cmd17 ∨ c = .cmd18) : s.gotResult c res = s.gotRead res := by
  rcases hc with rfl | rfl <;> rfl

/-- The write commands have one caller (R231, R232). -/
theorem State.gotResult_write (hc : c = .cmd24 ∨ c = .cmd25) : s.gotResult c res = s.gotWrite res := by
  rcases hc with rfl | rfl <;> rfl

/-- Reads and writes end alike when their command times out (R305). -/
theorem State.gotResult_timeout (hc : c = .cmd17 ∨ c = .cmd18 ∨ c = .cmd24 ∨ c = .cmd25) :
    s.gotResult c .timeout = s.ioEnd .commandTimeout := by
  rcases hc with rfl | rfl | rfl | rfl <;> rfl

end

end

end Sys2Proof.Machine
end

section
/-! PROOFS. What the block answers without a transfer, and where the verdict on an address command leads. -/

namespace Sys2Proof.Machine

/-- Settles O7: each clause names the pre-check that fails first. -/
theorem preChecksReject : Obligations.PreChecksReject := by
  unfold Obligations.PreChecksReject
  refine fun s hidle => ⟨fun hlen => ?_, fun hphase hpos hmod => ?_, fun hphase => ?_,
    fun hready hpos hmod hover => ?_⟩
  · exact exec_blocks_rejected hidle (State.preCheckBlocks_badLength hlen)
  · refine exec_blocks_rejected hidle ?_
    rw [State.preCheckBlocks_goodLength hpos hmod, if_pos hphase]
  · rw [exec_blockCount_notReady hidle hphase, State.rejectOp]
  · have hbeyond : addrOverflow s.blockScale s.blockNumber = true := decide_eq_true hover
    refine exec_blocks_rejected hidle ?_
    rw [State.preCheckBlocks_goodLength hpos hmod, if_neg (not_not.mpr hready), if_pos hbeyond]

/-- Settles O31: the caller's test of the result, a timeout first, then a zero or non-zero R1. -/
theorem blockCommandVerdicts : Obligations.BlockCommandVerdicts := by
  unfold Obligations.BlockCommandVerdicts
  refine fun s c hnext => ⟨fun hq hc => ?_, fun r hr hq hc => ?_, fun r hr hq hc => ?_,
    fun hq hc => ?_, fun hq hc => ?_⟩ <;> rw [step_got hnext hq]
  · rw [State.gotResult_timeout hc, State.ioEnd, State.setSeq]
  · rw [State.gotResult_read hc, State.gotRead, if_neg hr, State.ioEnd, State.setSeq]
  · rw [State.gotResult_write hc, State.gotWrite, if_neg hr, State.ioEnd, State.setSeq]
  · rw [State.gotResult_read hc, State.gotRead, if_pos rfl]
  · rw [State.gotResult_write hc, State.gotWrite, if_pos rfl]

/-- Settles O50: IDLE is a control point with no step of its own. -/
theorem idleCoreWaits : Obligations.IdleCoreWaits := by
  unfold Obligations.IdleCoreWaits
  intro s hnext hq
  rw [step_core hnext]
  simp only [coreStep, hq, micro]

end Sys2Proof.Machine
end

section
/-! SUPPORT. The two ways the block takes no part in what the host does: an operation in progress, to which the
dispatcher listens no more, and the asserted reset input, under which a turn reaches only what is not the block's. -/

namespace Sys2Proof.Machine

/-- While an operation runs, what the dispatcher takes up only at IDLE changes nothing (R343). -/
theorem next_unless_busy {s : State} (hbusy : s.seq ≠ .idle) (u : State) :
    (.next (if s.busy then s else u) : Outcome) = .next s :=
  congrArg _ (if_pos (decide_eq_true hbusy))

/-- At IDLE no host access races with an operation (R94, R345). -/
theorem State.racesWith_idle {s : State} (hidle : s.seq = .idle) (opc : BitVec 4) (a : Word) :
    s.racesWith opc a = false := by
  rw [State.racesWith, State.busy_eq_false hidle]
  rfl

/-- At IDLE the host's store is the memory's (R81). -/
theorem State.hostStore_idle {s : State} (hidle : s.seq = .idle) (a : Word) (v : Byte) :
    s.hostStore a v = s.memWrite a v := by
  simp [State.hostStore, State.racesWith_idle hidle]

/-- `s` with another host memory, other values read by the host and other free inputs: all that is not the
block's, apart from the trace, the parameters and the level of the reset input (R340). -/
def State.setOutside (s : State) (mem : Memory) (rd : Word) (loads : List HostLoad) (env : Env) :
    State :=
  { s with mem := mem, hostRd := rd, hostLoads := loads, env := env }

/-- A reset keeps what is not the block's (R340). -/
theorem State.applyReset_setOutside (s : State) (mem : Memory) (rd : Word) (loads : List HostLoad)
    (env : Env) (level : Bool) :
    (s.setOutside mem rd loads env).applyReset level =
      (s.applyReset level).setOutside mem rd loads env := rfl

/-- The reset state is a reset's outcome (R340). -/
theorem State.applyReset_reset : State.reset.applyReset false = State.reset := rfl

/-- After a reset STATUS reads 0 (R340). -/
theorem State.applyReset_status (s : State) (level : Bool) : (s.applyReset level).status = 0#32 := by
  change State.reset.status = 0#32
  decide

section
variable {s : State} (hheld : s.applyReset true = s)
include hheld

/-- A block that an asserted reset leaves as it is has the input asserted (R340). -/
theorem State.resetIn_of_held : s.resetIn = true := (congrArg State.resetIn hheld).symm

/-- A block that an asserted reset leaves as it is runs no operation (R340). -/
theorem State.idle_of_held : s.seq = .idle := (congrArg State.seq hheld).symm

/-- A held block stays held whatever happens outside it (R340). -/
theorem State.setOutside_held (mem : Memory) (rd : Word) (loads : List HostLoad) (env : Env) :
    (s.setOutside mem rd loads env).applyReset true = s.setOutside mem rd loads env := by
  rw [State.applyReset_setOutside, hheld]

/-- Every turn but the release finds the held block deaf: it reaches only what is not the block's (R340). -/
theorem turnStep_held {t : State} {turn : Turn} (hturn : turn ≠ .resetPin false)
    (hs : turnStep s turn = .next t) :
    ∃ mem rd loads env, t = s.setOutside mem rd loads env := by
  have hreset := State.resetIn_of_held hheld
  cases turn <;> simp only [turnStep, hreset, if_true] at hs <;> cases hs
  case core => exact ⟨_, _, _, _, rfl⟩
  case hostWrite off width w => exact ⟨_, _, _, _, rfl⟩
  case hostRead off width =>
    obtain ⟨rd, hread⟩ := s.hostReadReg_spec off width
    exact ⟨_, rd, _, _, hread⟩
  case memWrite a v => exact ⟨_, _, _, _, State.hostStore_idle (State.idle_of_held hheld) a v⟩
  case memRead a =>
    obtain ⟨l, cs, n, hload⟩ := s.hostLoad_spec a
    exact ⟨_, _, _, _, hload⟩
  case resetPin level =>
    cases level
    · exact absurd rfl hturn
    · exact ⟨_, _, _, _, hheld⟩

/-- A step of the held block keeps it held and makes no bus event, unless the input is released (R340). -/
theorem step_held_frame {t : State} (hrelease : ∀ r, s.env.turns ≠ .resetPin false :: r)
    (hs : step s = .next t) : t.applyReset true = t ∧ t.trace = s.trace := by
  rcases step_cases s with ⟨turn, rest, hturns, hstep⟩ | ⟨hnext, _⟩ | ⟨_, _, hstep⟩
  · have hdrop : (s.dropTurn rest).applyReset true = s.dropTurn rest :=
      State.setOutside_held hheld _ _ _ _
    have hturn : turn ≠ .resetPin false := fun h => hrelease rest (h ▸ hturns)
    obtain ⟨mem, rd, loads, env, rfl⟩ := turnStep_held hdrop hturn (hstep ▸ hs)
    exact ⟨State.setOutside_held hdrop mem rd loads env, rfl⟩
  · exact absurd (State.resetIn_of_held hheld) (by simp [hnext.2])
  · rw [hstep] at hs
    cases hs
    exact ⟨hheld, rfl⟩

end

end Sys2Proof.Machine
end

section
/-! PROOFS. What the reset input does to the block, what the reset state meets, and an OP write while BUSY. -/

namespace Sys2Proof.Machine

/-- Settles O52: a turn of the reset input is `applyReset`, whose values are read off; while the input is
asserted a step reaches only what is not the block's. -/
theorem resetHoldsTheBlock : Obligations.ResetHoldsTheBlock := by
  unfold Obligations.ResetHoldsTheBlock
  refine fun s t level rest => ⟨fun hturns hs => ?_, fun _ hheld => step_held_frame hheld⟩
  rw [step_turn hturns] at hs
  cases hs
  exact ⟨rfl, State.applyReset_status _ _, rfl, rfl, rfl, rfl, rfl, rfl, rfl, rfl, rfl, rfl,
    rfl, rfl, rfl⟩

/-- Settles O6: NOP has no effect anywhere, and every other opcode is taken up only at IDLE. -/
theorem opWriteWhileBusyIsIgnored : Obligations.OpWriteWhileBusyIsIgnored := by
  unfold Obligations.OpWriteWhileBusyIsIgnored
  intro s w hbusy
  rcases decodeOp_cases w with hw | hw | hw | hw | hw | hw | ⟨_, hw⟩ | ⟨_, hw⟩ <;> rw [hw]
  · rfl
  all_goals exact next_unless_busy hbusy _

/-- Settles O60: the empty memory is canonical, a reset meets the session invariant, and IDLE is outside every
transfer. -/
theorem resetMeetsTheInvariants : Obligations.ResetMeetsTheInvariants :=
  ⟨State.reset_mem_wf, State.applyReset_reset ▸ State.reset.applyReset_session false,
    .outside rfl nofun⟩

end Sys2Proof.Machine
end
